-- ==== Sys2Proof/Word.lean ====
section
/-!
DEFINITION. The word types of the machine (spec/00_scope.md R5, R7, R8): every value is an unsigned bit vector of the
width the spec gives it.
-/

namespace Sys2Proof

/-- An 8-bit value: a general register, a timer, a byte of memory, the immediate `nn` (R5, R62). -/
abbrev Byte := BitVec 8

/-- A 16-bit value: an instruction word, `PC`, `I`, a stack entry (R5). -/
abbrev Word := BitVec 16

/-- A 4-bit field: a register number `x` or `y`, a row count or sub-opcode `n`, the family `op` (R62). -/
abbrev Nibble := BitVec 4

/-- The 12-bit address field `nnn` (R62). -/
abbrev Addr12 := BitVec 12

/-- A register number, 0 to 15 (R11). -/
abbrev RegIdx := Nibble

/-- The framebuffer: 2048 one-bit pixels, pixel `(x, y)` at bit `y * 64 + x` (R22). -/
abbrev FrameBuffer := BitVec 2048

/-- The register number of `VF` (R11, R12). -/
abbrev vfIdx : RegIdx := 15#4

end Sys2Proof
end

