-- ==== Sys2Proof/Config.lean ====
section
/-!
DEFINITION. What an implementation fixes: the sizes of spec/00_scope.md R5, the value types of the parameters of R6, and
the one free value of the machine, the random byte. The values the model takes for the parameters stand in
Sys2Proof/Machine/Parameters.lean.
-/

namespace Sys2Proof

/-- Number of memory bytes, addresses 0 to 4095 (R5, R40). -/
def Config.memBytes : Nat := 4096

/-- Address the ROM is loaded at and execution starts at (R5, R15). -/
def Config.romBase : Nat := 0x200

/-- Largest ROM in bytes: 4096 - 0x200 (R5, R193). -/
def Config.maxRomBytes : Nat := 3584

/-- Bytes of the font, at addresses 0 to 79 (R5, R32). -/
def Config.fontBytes : Nat := 80

/-- `DRAW_EDGE` (R6, R134): what DrawSprite does with a pixel past the right or bottom edge. -/
inductive DrawEdge where
  | clip   -- the pixel is not drawn
  | wrap   -- its column is taken modulo 64 and its row modulo 32
deriving DecidableEq, Repr

/-- `ODD_PC` (R6, R46): what a fetch at an odd `PC` does. -/
inductive OddPc where
  | fault   -- PcMisaligned
  | allow   -- an ordinary fetch
deriving DecidableEq, Repr

/-- `LOW_NIBBLE_5_9` (R6, R68): whether the low nibble of families 5 and 9 must be 0. -/
inductive LowNibble59 where
  | strict    -- a nonzero low nibble is Unknown
  | ignored   -- the low nibble is not looked at
deriving DecidableEq, Repr

/-- `FAMILY0_MATCH` (R6, R67): whether family 0 is matched on the whole word or on its low byte. -/
inductive Family0Match where
  | word
  | lowByte
deriving DecidableEq, Repr

/-- `KEY_INDEX` (R6, R95): what the key skips do when the key number is above 15. -/
inductive KeyIndexPolicy where
  | fault        -- KeyIndexFault
  | mask         -- the low nibble selects the key
  | notPressed   -- the key counts as released
deriving DecidableEq, Repr

/-- `RESET_VALUES` (R6, R30): what Reset leaves in the elements the source gives no value for. -/
inductive ResetValues where
  | zero
  | unspecified
deriving DecidableEq, Repr

/-- `VF_DEST` (R6, R110): a flag-writing instruction whose destination is `VF`. -/
inductive VfDest where
  | flagLast   -- the flag is what remains
  | refuse     -- the instruction is not modelled in that case
deriving DecidableEq, Repr

/-- `FONT` (R6, R32): the 80 bytes of the font table, 16 glyphs of five bytes; any 80 bytes are a value. -/
abbrev Font := Vector Byte 80

/-- `random_byte()` (R8, R123, `RANDOM` of R6): the byte of the `k`-th draw of a run. A FREE VALUE: it has no body, so
nothing can be proved of it, and two draws are unrelated. Log entry 8. -/
opaque Config.randomByte : Nat → Byte

end Sys2Proof
end

