-- ==== Sys2Proof/Machine/Parameters.lean ====
section
/-!
DEFINITION. The values this model takes for the parameters of spec/00_scope.md R6: the defaults the spec states. Every
operation that depends on a parameter takes it as an argument, so the other values are modelled as well; only these
definitions choose. `RANDOM` is the free value Config.randomByte.
-/

namespace Sys2Proof.Machine

/-- `DRAW_EDGE = clip` (R6, R134, decision D9). DESIGN CHOICE, unsafe: log entry 1. -/
def paramDrawEdge : DrawEdge := .clip

/-- `ODD_PC = fault` (R6, R46, decision D5). DESIGN CHOICE, safe: log entry 2. -/
def paramOddPc : OddPc := .fault

/-- `LOW_NIBBLE_5_9 = strict` (R6, R68, decision D4). DESIGN CHOICE, safe: log entry 3. -/
def paramLowNibble59 : LowNibble59 := .strict

/-- `FAMILY0_MATCH = word` (R6, R67, decision D3). DESIGN CHOICE, unsafe: log entry 4. -/
def paramFamily0Match : Family0Match := .word

/-- `KEY_INDEX = fault` (R6, R95, decision D14). DESIGN CHOICE, safe: log entry 5. -/
def paramKeyIndex : KeyIndexPolicy := .fault

/-- `RESET_VALUES = zero` (R6, R30, decision D6). DESIGN CHOICE, unsafe: log entry 7. -/
def paramResetValues : ResetValues := .zero

/-- `VF_DEST = flag_last` (R6, R110, decision D12). DESIGN CHOICE, unsafe: log entry 9. -/
def paramVfDest : VfDest := .flagLast

/-- The customary font table (R32): glyph `d` is the five bytes from index `5 * d`. -/
def customaryFont : List Byte :=
  [0xF0, 0x90, 0x90, 0x90, 0xF0,   -- 0
   0x20, 0x60, 0x20, 0x20, 0x70,   -- 1
   0xF0, 0x10, 0xF0, 0x80, 0xF0,   -- 2
   0xF0, 0x10, 0xF0, 0x10, 0xF0,   -- 3
   0x90, 0x90, 0xF0, 0x10, 0x10,   -- 4
   0xF0, 0x80, 0xF0, 0x10, 0xF0,   -- 5
   0xF0, 0x80, 0xF0, 0x90, 0xF0,   -- 6
   0xF0, 0x10, 0x20, 0x40, 0x40]   -- 7
  ++
  [0xF0, 0x90, 0xF0, 0x90, 0xF0,   -- 8
   0xF0, 0x90, 0xF0, 0x10, 0xF0,   -- 9
   0xF0, 0x90, 0xF0, 0x90, 0x90,   -- A
   0xE0, 0x90, 0xE0, 0x90, 0xE0,   -- B
   0xF0, 0x80, 0x80, 0x80, 0xF0,   -- C
   0xE0, 0x90, 0x90, 0x90, 0xE0,   -- D
   0xF0, 0x80, 0xF0, 0x80, 0xF0,   -- E
   0xF0, 0x80, 0xF0, 0x80, 0x80]   -- F

/-- `FONT` is the customary table (R6, R32, decision D7). DESIGN CHOICE, unsafe: log entry 6. -/
def paramFont : Font := ⟨⟨customaryFont⟩, rfl⟩

end Sys2Proof.Machine
end

