-- ==== Sys2Proof/Syntax.lean ====
section
/-!
DEFINITION. The instructions (spec/30_encoding.md R62 to R66): one constructor per row of spec/opcode_table.json, in the
table's order, with exactly the fields the row's form names. A field is a bit vector of its width, so every value of a
field is a value the encoding has (R64).
-/

namespace Sys2Proof

/-- A decoded instruction, the decoder's "Operation" (R65, R66). -/
inductive Instr where
  /-- Nop (R81): no operation. -/
  | nop
  /-- ClearDisplay (R82): clear the framebuffer. -/
  | clearDisplay
  /-- SubroutineReturn (R83): pop the return address into `PC`. -/
  | subroutineReturn
  /-- Jump (R84): `PC <- nnn`. -/
  | jump (nnn : Addr12)
  /-- SubroutineCall (R85): push `PC + 2`, then `PC <- nnn`. -/
  | subroutineCall (nnn : Addr12)
  /-- SkipIfEqualImm (R91): skip if `V[x] = nn`. -/
  | skipIfEqualImm (x : RegIdx) (nn : Byte)
  /-- SkipIfNotEqualImm (R92): skip if `V[x] ≠ nn`. -/
  | skipIfNotEqualImm (x : RegIdx) (nn : Byte)
  /-- SkipIfEqualReg (R93): skip if `V[x] = V[y]`. -/
  | skipIfEqualReg (x : RegIdx) (y : RegIdx)
  /-- SetRegister (R101): `V[x] <- nn`. -/
  | setRegister (x : RegIdx) (nn : Byte)
  /-- AddImmediate (R102): `V[x] <- V[x] + nn`, no flag. -/
  | addImmediate (x : RegIdx) (nn : Byte)
  /-- CopyRegister (R103): `V[x] <- V[y]`. -/
  | copyRegister (x : RegIdx) (y : RegIdx)
  /-- Or (R104): bitwise or. -/
  | or (x : RegIdx) (y : RegIdx)
  /-- And (R105): bitwise and. -/
  | and (x : RegIdx) (y : RegIdx)
  /-- Xor (R106): bitwise exclusive or. -/
  | xor (x : RegIdx) (y : RegIdx)
  /-- AddRegisters (R111): add, `VF` the carry. -/
  | addRegisters (x : RegIdx) (y : RegIdx)
  /-- Subtract (R112): `V[x] - V[y]`, `VF` no borrow. -/
  | subtract (x : RegIdx) (y : RegIdx)
  /-- ShiftRight (R114): shift right by one in place; `y` is decoded and ignored. -/
  | shiftRight (x : RegIdx) (y : RegIdx)
  /-- ReverseSubtract (R113): `V[y] - V[x]`, `VF` no borrow. -/
  | reverseSubtract (x : RegIdx) (y : RegIdx)
  /-- ShiftLeft (R115): shift left by one in place; `y` is decoded and ignored. -/
  | shiftLeft (x : RegIdx) (y : RegIdx)
  /-- SkipIfNotEqualReg (R94): skip if `V[x] ≠ V[y]`. -/
  | skipIfNotEqualReg (x : RegIdx) (y : RegIdx)
  /-- SetIndex (R120): `I <- nnn`. -/
  | setIndex (nnn : Addr12)
  /-- JumpWithOffset (R86): `PC <- V[0] + nnn`. -/
  | jumpWithOffset (nnn : Addr12)
  /-- Random (R123): `V[x] <- random_byte() and nn`. -/
  | random (x : RegIdx) (nn : Byte)
  /-- DrawSprite (R130): draw `n` sprite rows at `(V[x], V[y])`. -/
  | drawSprite (x : RegIdx) (y : RegIdx) (n : Nibble)
  /-- SkipIfKeyPressed (R95): skip if key `V[x]` is pressed. -/
  | skipIfKeyPressed (x : RegIdx)
  /-- SkipIfKeyNotPressed (R96): skip if key `V[x]` is not pressed. -/
  | skipIfKeyNotPressed (x : RegIdx)
  /-- GetDelayTimer (R141): `V[x] <- DT`. -/
  | getDelayTimer (x : RegIdx)
  /-- StoreNextKeypress (R145): wait for a key-down, then `V[x] <- key`. -/
  | storeNextKeypress (x : RegIdx)
  /-- SetDelayTimer (R142): `DT <- V[x]`. -/
  | setDelayTimer (x : RegIdx)
  /-- SetSoundTimer (R143): `ST <- V[x]`. -/
  | setSoundTimer (x : RegIdx)
  /-- AddToIndex (R121): `I <- I + V[x]`. -/
  | addToIndex (x : RegIdx)
  /-- SetIndexToSprite (R144): `I <- V[x] * 5`. -/
  | setIndexToSprite (x : RegIdx)
  /-- StoreBcd (R151): store the decimal digits of `V[x]` at `I`. -/
  | storeBcd (x : RegIdx)
  /-- StoreRegistersInMemory (R152): store `V[0..x]` at `I`. -/
  | storeRegistersInMemory (x : RegIdx)
  /-- SetRegistersFromMemory (R153): load `V[0..x]` from `I`. -/
  | setRegistersFromMemory (x : RegIdx)
deriving DecidableEq, Repr

end Sys2Proof
end

