-- ==== Sys2Proof/WellFormed.lean ====
section
/-!
DEFINITION. Well-formedness of what enters the machine from outside: instructions (spec/30_encoding.md R62, R64), key codes
(spec/60_exceptions.md R173, R174) and ROM images (spec/70_reset_and_hazards.md R192, R193). What the machine does with an
ill-formed key code or ROM is modelled too (Machine/Events.lean).
-/

namespace Sys2Proof

/-- Every instruction is well-formed: the types of the fields carry their ranges (x, y, n in 0..15, nn in 0..255, nnn in
0..4095), all 16 register numbers are legal in every instruction that has the field (R64), and no value of `n` is rejected
(R72, conflict C5). One arm per constructor, so that a new instruction must be looked at here. -/
def Instr.wellFormed : Instr → Bool
  | .nop => true
  | .clearDisplay => true
  | .subroutineReturn => true
  | .jump _ => true
  | .subroutineCall _ => true
  | .skipIfEqualImm _ _ => true
  | .skipIfNotEqualImm _ _ => true
  | .skipIfEqualReg _ _ => true
  | .setRegister _ _ => true
  | .addImmediate _ _ => true
  | .copyRegister _ _ => true
  | .or _ _ => true
  | .and _ _ => true
  | .xor _ _ => true
  | .addRegisters _ _ => true
  | .subtract _ _ => true
  | .shiftRight _ _ => true
  | .reverseSubtract _ _ => true
  | .shiftLeft _ _ => true
  | .skipIfNotEqualReg _ _ => true
  | .setIndex _ => true
  | .jumpWithOffset _ => true
  | .random _ _ => true
  | .drawSprite _ _ _ => true
  | .skipIfKeyPressed _ => true
  | .skipIfKeyNotPressed _ => true
  | .getDelayTimer _ => true
  | .storeNextKeypress _ => true
  | .setDelayTimer _ => true
  | .setSoundTimer _ => true
  | .addToIndex _ => true
  | .setIndexToSprite _ => true
  | .storeBcd _ => true
  | .storeRegistersInMemory _ => true
  | .setRegistersFromMemory _ => true

/-- A key code that names a key, 0 to 15; any other code is ignored by the core (R173, R174). -/
def keyCodeWellFormed (k : Nat) : Bool := decide (k < 16)

/-- A ROM that fits into memory, at most 3584 bytes; a larger one raises RomTooLarge (R193). -/
def romWellFormed (bytes : List Byte) : Bool := decide (bytes.length ≤ Config.maxRomBytes)

end Sys2Proof
end

