-- ==== Sys2Proof/Decode.lean ====
section
/-!
DEFINITION. The decoder and the encoder (spec/30_encoding.md R61 to R73). Decoding is a total function of the instruction
word alone (R65): it answers an instruction with its fields, or rejects the word by name. The encoder is written from the
same forms (R63) and patterns (R66).
-/

namespace Sys2Proof

/-- Why nothing was decoded. -/
inductive DecodeError where
  /-- The word matches no row of R66, the source's `DecodeError::Unknown(instruction)` (R65, R72). -/
  | unknown (word : Word)
  /-- Fewer than two bytes were given: an instruction is exactly two bytes (R61). No Step can meet this, since a fetch
  reads two bytes (R44). -/
  | truncated
deriving DecidableEq, Repr

/-! ### Fields (R62) -/

/-- `op`, bits 15..12. -/
def fieldOp (w : Word) : Nibble := w.extractLsb' 12 4

/-- `x`, bits 11..8. -/
def fieldX (w : Word) : RegIdx := w.extractLsb' 8 4

/-- `y`, bits 7..4. -/
def fieldY (w : Word) : RegIdx := w.extractLsb' 4 4

/-- `n`, bits 3..0. -/
def fieldN (w : Word) : Nibble := w.extractLsb' 0 4

/-- `nn`, bits 7..0. -/
def fieldNn (w : Word) : Byte := w.extractLsb' 0 8

/-- `nnn`, bits 11..0. -/
def fieldNnn (w : Word) : Addr12 := w.extractLsb' 0 12

/-! ### Decoding (R65 to R71) -/

/-- Family 0 (R67): Nop, ClearDisplay and SubroutineReturn are single words under `FAMILY0_MATCH = word`; under
`low_byte` the bits 11..8 are not looked at. -/
def decodeFamily0 (f0 : Family0Match) (w : Word) : Except DecodeError Instr :=
  if f0 = .word ∧ fieldX w ≠ 0#4 then .error (.unknown w)
  else if fieldNn w = 0x00#8 then .ok .nop
  else if fieldNn w = 0xE0#8 then .ok .clearDisplay
  else if fieldNn w = 0xEE#8 then .ok .subroutineReturn
  else .error (.unknown w)

/-- Families 5 and 9 (R68): the low nibble must be 0 under `LOW_NIBBLE_5_9 = strict`. -/
def decodeRegSkip (ln : LowNibble59) (i : Instr) (w : Word) : Except DecodeError Instr :=
  if ln = .strict ∧ fieldN w ≠ 0#4 then .error (.unknown w) else .ok i

/-- Family 8 (R69): sub-dispatch on the low nibble. -/
def decodeFamily8 (w : Word) : Except DecodeError Instr :=
  let x := fieldX w
  let y := fieldY w
  if fieldN w = 0x0#4 then .ok (.copyRegister x y)
  else if fieldN w = 0x1#4 then .ok (.or x y)
  else if fieldN w = 0x2#4 then .ok (.and x y)
  else if fieldN w = 0x3#4 then .ok (.xor x y)
  else if fieldN w = 0x4#4 then .ok (.addRegisters x y)
  else if fieldN w = 0x5#4 then .ok (.subtract x y)
  else if fieldN w = 0x6#4 then .ok (.shiftRight x y)
  else if fieldN w = 0x7#4 then .ok (.reverseSubtract x y)
  else if fieldN w = 0xE#4 then .ok (.shiftLeft x y)
  else .error (.unknown w)

/-- Family E (R70): sub-dispatch on the low byte. -/
def decodeFamilyE (w : Word) : Except DecodeError Instr :=
  let x := fieldX w
  if fieldNn w = 0x9E#8 then .ok (.skipIfKeyPressed x)
  else if fieldNn w = 0xA1#8 then .ok (.skipIfKeyNotPressed x)
  else .error (.unknown w)

/-- Family F (R71): sub-dispatch on the low byte. -/
def decodeFamilyF (w : Word) : Except DecodeError Instr :=
  let x := fieldX w
  if fieldNn w = 0x07#8 then .ok (.getDelayTimer x)
  else if fieldNn w = 0x0A#8 then .ok (.storeNextKeypress x)
  else if fieldNn w = 0x15#8 then .ok (.setDelayTimer x)
  else if fieldNn w = 0x18#8 then .ok (.setSoundTimer x)
  else if fieldNn w = 0x1E#8 then .ok (.addToIndex x)
  else if fieldNn w = 0x29#8 then .ok (.setIndexToSprite x)
  else if fieldNn w = 0x33#8 then .ok (.storeBcd x)
  else if fieldNn w = 0x55#8 then .ok (.storeRegistersInMemory x)
  else if fieldNn w = 0x65#8 then .ok (.setRegistersFromMemory x)
  else .error (.unknown w)

/-- The decoder for given values of the two decoding parameters: dispatch by the top nibble (R65). -/
def decodeWordWith (f0 : Family0Match) (ln : LowNibble59) (w : Word) : Except DecodeError Instr :=
  match (fieldOp w).toNat with
  | 0x0 => decodeFamily0 f0 w
  | 0x1 => .ok (.jump (fieldNnn w))
  | 0x2 => .ok (.subroutineCall (fieldNnn w))
  | 0x3 => .ok (.skipIfEqualImm (fieldX w) (fieldNn w))
  | 0x4 => .ok (.skipIfNotEqualImm (fieldX w) (fieldNn w))
  | 0x5 => decodeRegSkip ln (.skipIfEqualReg (fieldX w) (fieldY w)) w
  | 0x6 => .ok (.setRegister (fieldX w) (fieldNn w))
  | 0x7 => .ok (.addImmediate (fieldX w) (fieldNn w))
  | 0x8 => decodeFamily8 w
  | 0x9 => decodeRegSkip ln (.skipIfNotEqualReg (fieldX w) (fieldY w)) w
  | 0xA => .ok (.setIndex (fieldNnn w))
  | 0xB => .ok (.jumpWithOffset (fieldNnn w))
  | 0xC => .ok (.random (fieldX w) (fieldNn w))
  | 0xD => .ok (.drawSprite (fieldX w) (fieldY w) (fieldN w))
  | 0xE => decodeFamilyE w
  | 0xF => decodeFamilyF w
  | _ => .error (.unknown w)

/-- The machine's decoder: `decodeWordWith` at the parameters the model takes (R6). -/
def decodeWord (w : Word) : Except DecodeError Instr :=
  decodeWordWith Machine.paramFamily0Match Machine.paramLowNibble59 w

/-- Two bytes make one instruction word, the byte at the lower address in bits 15..8 (R42). -/
def wordOfBytes (hi lo : Byte) : Word := hi ++ lo

/-- Decode the first instruction of a list of bytes and answer the bytes after it; total on any list (R61, R65). -/
def decodeBytes : List Byte → Except DecodeError (Instr × List Byte)
  | hi :: lo :: rest =>
    match decodeWord (wordOfBytes hi lo) with
    | .ok i => .ok (i, rest)
    | .error e => .error e
  | _ => .error .truncated

/-! ### Encoding (R63, R66) -/

/-- Form `NNN`: op, nnn. -/
def formNnn (op : Nibble) (nnn : Addr12) : Word := op ++ nnn

/-- Forms `XNN` and `XKK`: op, x, nn or a literal low byte. -/
def formXnn (op : Nibble) (x : RegIdx) (nn : Byte) : Word := op ++ x ++ nn

/-- Form `XYN`: op, x, y, n or a literal sub-opcode. -/
def formXyn (op : Nibble) (x y : RegIdx) (n : Nibble) : Word := op ++ x ++ y ++ n

/-- The word of an instruction. -/
def encodeWord : Instr → Word
  | .nop => 0x0000#16
  | .clearDisplay => 0x00E0#16
  | .subroutineReturn => 0x00EE#16
  | .jump nnn => formNnn 0x1#4 nnn
  | .subroutineCall nnn => formNnn 0x2#4 nnn
  | .skipIfEqualImm x nn => formXnn 0x3#4 x nn
  | .skipIfNotEqualImm x nn => formXnn 0x4#4 x nn
  | .skipIfEqualReg x y => formXyn 0x5#4 x y 0x0#4
  | .setRegister x nn => formXnn 0x6#4 x nn
  | .addImmediate x nn => formXnn 0x7#4 x nn
  | .copyRegister x y => formXyn 0x8#4 x y 0x0#4
  | .or x y => formXyn 0x8#4 x y 0x1#4
  | .and x y => formXyn 0x8#4 x y 0x2#4
  | .xor x y => formXyn 0x8#4 x y 0x3#4
  | .addRegisters x y => formXyn 0x8#4 x y 0x4#4
  | .subtract x y => formXyn 0x8#4 x y 0x5#4
  | .shiftRight x y => formXyn 0x8#4 x y 0x6#4
  | .reverseSubtract x y => formXyn 0x8#4 x y 0x7#4
  | .shiftLeft x y => formXyn 0x8#4 x y 0xE#4
  | .skipIfNotEqualReg x y => formXyn 0x9#4 x y 0x0#4
  | .setIndex nnn => formNnn 0xA#4 nnn
  | .jumpWithOffset nnn => formNnn 0xB#4 nnn
  | .random x nn => formXnn 0xC#4 x nn
  | .drawSprite x y n => formXyn 0xD#4 x y n
  | .skipIfKeyPressed x => formXnn 0xE#4 x 0x9E#8
  | .skipIfKeyNotPressed x => formXnn 0xE#4 x 0xA1#8
  | .getDelayTimer x => formXnn 0xF#4 x 0x07#8
  | .storeNextKeypress x => formXnn 0xF#4 x 0x0A#8
  | .setDelayTimer x => formXnn 0xF#4 x 0x15#8
  | .setSoundTimer x => formXnn 0xF#4 x 0x18#8
  | .addToIndex x => formXnn 0xF#4 x 0x1E#8
  | .setIndexToSprite x => formXnn 0xF#4 x 0x29#8
  | .storeBcd x => formXnn 0xF#4 x 0x33#8
  | .storeRegistersInMemory x => formXnn 0xF#4 x 0x55#8
  | .setRegistersFromMemory x => formXnn 0xF#4 x 0x65#8

/-- The two bytes of an instruction as they lie in memory, most significant first (R42). -/
def encodeBytes (i : Instr) : List Byte :=
  [(encodeWord i).extractLsb' 8 8, (encodeWord i).extractLsb' 0 8]

/-! ### The opcode map as rows (R66) -/

/-- The mnemonic of an instruction, as spec/opcode_table.json spells it (R74). -/
def mnemonicOf : Instr → String
  | .nop => "Nop"
  | .clearDisplay => "ClearDisplay"
  | .subroutineReturn => "SubroutineReturn"
  | .jump _ => "Jump"
  | .subroutineCall _ => "SubroutineCall"
  | .skipIfEqualImm _ _ => "SkipIfEqualImm"
  | .skipIfNotEqualImm _ _ => "SkipIfNotEqualImm"
  | .skipIfEqualReg _ _ => "SkipIfEqualReg"
  | .setRegister _ _ => "SetRegister"
  | .addImmediate _ _ => "AddImmediate"
  | .copyRegister _ _ => "CopyRegister"
  | .or _ _ => "Or"
  | .and _ _ => "And"
  | .xor _ _ => "Xor"
  | .addRegisters _ _ => "AddRegisters"
  | .subtract _ _ => "Subtract"
  | .shiftRight _ _ => "ShiftRight"
  | .reverseSubtract _ _ => "ReverseSubtract"
  | .shiftLeft _ _ => "ShiftLeft"
  | .skipIfNotEqualReg _ _ => "SkipIfNotEqualReg"
  | .setIndex _ => "SetIndex"
  | .jumpWithOffset _ => "JumpWithOffset"
  | .random _ _ => "Random"
  | .drawSprite _ _ _ => "DrawSprite"
  | .skipIfKeyPressed _ => "SkipIfKeyPressed"
  | .skipIfKeyNotPressed _ => "SkipIfKeyNotPressed"
  | .getDelayTimer _ => "GetDelayTimer"
  | .storeNextKeypress _ => "StoreNextKeypress"
  | .setDelayTimer _ => "SetDelayTimer"
  | .setSoundTimer _ => "SetSoundTimer"
  | .addToIndex _ => "AddToIndex"
  | .setIndexToSprite _ => "SetIndexToSprite"
  | .storeBcd _ => "StoreBcd"
  | .storeRegistersInMemory _ => "StoreRegistersInMemory"
  | .setRegistersFromMemory _ => "SetRegistersFromMemory"

/-- The rows of R66: mnemonic, match, mask. A word belongs to a row when `word and mask = match` (R65). -/
def opcodeRows : List (String × Word × Word) :=
  [("Nop", 0x0000#16, 0xFFFF#16),
   ("ClearDisplay", 0x00E0#16, 0xFFFF#16),
   ("SubroutineReturn", 0x00EE#16, 0xFFFF#16),
   ("Jump", 0x1000#16, 0xF000#16),
   ("SubroutineCall", 0x2000#16, 0xF000#16),
   ("SkipIfEqualImm", 0x3000#16, 0xF000#16),
   ("SkipIfNotEqualImm", 0x4000#16, 0xF000#16),
   ("SkipIfEqualReg", 0x5000#16, 0xF00F#16),
   ("SetRegister", 0x6000#16, 0xF000#16),
   ("AddImmediate", 0x7000#16, 0xF000#16),
   ("CopyRegister", 0x8000#16, 0xF00F#16),
   ("Or", 0x8001#16, 0xF00F#16)]
  ++
  [("And", 0x8002#16, 0xF00F#16),
   ("Xor", 0x8003#16, 0xF00F#16),
   ("AddRegisters", 0x8004#16, 0xF00F#16),
   ("Subtract", 0x8005#16, 0xF00F#16),
   ("ShiftRight", 0x8006#16, 0xF00F#16),
   ("ReverseSubtract", 0x8007#16, 0xF00F#16),
   ("ShiftLeft", 0x800E#16, 0xF00F#16),
   ("SkipIfNotEqualReg", 0x9000#16, 0xF00F#16),
   ("SetIndex", 0xA000#16, 0xF000#16),
   ("JumpWithOffset", 0xB000#16, 0xF000#16),
   ("Random", 0xC000#16, 0xF000#16),
   ("DrawSprite", 0xD000#16, 0xF000#16)]
  ++
  [("SkipIfKeyPressed", 0xE09E#16, 0xF0FF#16),
   ("SkipIfKeyNotPressed", 0xE0A1#16, 0xF0FF#16),
   ("GetDelayTimer", 0xF007#16, 0xF0FF#16),
   ("StoreNextKeypress", 0xF00A#16, 0xF0FF#16),
   ("SetDelayTimer", 0xF015#16, 0xF0FF#16),
   ("SetSoundTimer", 0xF018#16, 0xF0FF#16),
   ("AddToIndex", 0xF01E#16, 0xF0FF#16),
   ("SetIndexToSprite", 0xF029#16, 0xF0FF#16),
   ("StoreBcd", 0xF033#16, 0xF0FF#16),
   ("StoreRegistersInMemory", 0xF055#16, 0xF0FF#16),
   ("SetRegistersFromMemory", 0xF065#16, 0xF0FF#16)]

/-- Whether a word matches a row. -/
def matchesRow (w : Word) (row : String × Word × Word) : Bool := (w &&& row.2.2) == row.2.1

/-! ### The host's view of the table -/

/-- The bytes of an instruction whose bits, numbered as spec/opcode_table.json numbers them, are `w`: one 16-bit word,
bits above `nbits` zero, stored big-endian (R42, R61). -/
def tableBytes (nbits w : Nat) : List Byte :=
  let v := w % 2 ^ nbits
  [BitVec.ofNat 8 (v / 256), BitVec.ofNat 8 v]

/-- The instruction the decoder reads from those bytes, none where it rejects them. -/
def decodeTableWord (nbits w : Nat) : Option Instr :=
  match decodeBytes (tableBytes nbits w) with
  | .ok (i, _) => some i
  | .error _ => none

end Sys2Proof
end

