-- ==== Sys2Proof/Machine/State.lean ====
section
/-!
DEFINITION. The architectural state (spec/10_state.md R10 to R34), the events of the surroundings (spec/60_exceptions.md
R170) and the reasons the model can stop. Plain data throughout.
-/

namespace Sys2Proof.Machine

/-- Memory: (address, byte) pairs in one canonical form, addresses strictly rising and below 4096, no entry equal to what
an unlisted address reads as (`Memory.wf`, Machine/Ops.lean; R26, R40). -/
abbrev Memory := List Host.Cell

/-- `CTRL` (R24): the two control states. -/
inductive Control where
  | running
  | awaitingKey
deriving DecidableEq, Repr

/-- The fault kinds of R161, which the machine latches in `FAULT`. -/
inductive FaultKind where
  /-- The fetched word matches no row of R66 (R162). -/
  | decodeError
  /-- SubroutineCall with 16 entries in use (R163). -/
  | stackOverflow
  /-- SubroutineReturn with an empty stack (R163). -/
  | stackUnderflow
  /-- LoadRom of more than 3584 bytes (R165). -/
  | romTooLarge
  /-- An address outside 0..4095, at fetch or through `I` (R164). -/
  | memoryFault
  /-- A fetch at an odd `PC` under `ODD_PC = fault` (R46, R166). -/
  | pcMisaligned
  /-- A key skip with `V[x] > 15` under `KEY_INDEX = fault` (R95, R166). -/
  | keyIndexFault
deriving DecidableEq, Repr

/-- A fault record (R28). -/
structure FaultRecord where
  kind  : FaultKind
  pc    : Word
  instr : Word
  addr  : Word
deriving DecidableEq, Repr

/-- The seven events of R170. -/
inductive Event where
  /-- Step: one fetch-decode-execute, when enabled (R171). -/
  | step
  /-- Tick: decrement the timers (R172). -/
  | tick
  /-- KeyDown with a key code (R173). -/
  | keyDown (code : Nat)
  /-- KeyUp with a key code (R174). -/
  | keyUp (code : Nat)
  /-- RedrawAck: the display has consumed the framebuffer (R175). -/
  | redrawAck
  /-- Reset (R177, R190). -/
  | reset
  /-- LoadRom with the bytes of a ROM (R178, R192). -/
  | loadRom (bytes : List Byte)
deriving DecidableEq, Repr

/-- Why a step has no next state. The faults of R161 are not here: the machine TAKES them, a next state with `FAULT`
latched (R160, R168). -/
inductive Fault where
  /-- The machine is Halted (`FAULT` holds the record given) and the surroundings have scheduled no event: no Step is
  enabled for good (R171, R179). Raised by `step` alone, never by a meaning. Safe: the spec gives the machine no further
  change of state here. Log entry 12. -/
  | halted (record : FaultRecord)
deriving DecidableEq, Repr

/-- What the model does not define. -/
inductive Refusal where
  /-- An instruction that has no meaning in `exec` yet. Raised by no arm: every instruction has its meaning. Safe. -/
  | notModelled (mnemonic : String)
  /-- LoadRom other than directly after Reset (R178, R194; the treatment `refuse` of U26, decision D24). Raised by the
  LoadRom event alone. Safe. Log entry 11. -/
  | loadRomOutOfOrder
  /-- A flag-writing instruction whose destination is `VF`, under `VF_DEST = refuse` (R110). Raised by the five
  instructions of spec/43_arith_shift.md under that value only, which is not the one the model takes. Safe. Log entry 9. -/
  | vfDestination
deriving DecidableEq, Repr

/-- The state of the core (R10), and three fields of the model's own at the end. -/
structure State where
  /-- `MEM` (R26, R40). -/
  mem     : Memory
  /-- `V[0..15]`; `VF` is `V[15]` (R11, R12). -/
  v       : Vector Byte 16
  /-- `I` (R14). -/
  index   : Word
  /-- `PC` (R15). -/
  pc      : Word
  /-- `STACK[0..15]` (R18). -/
  stack   : Vector Word 16
  /-- `SP`, the number of stack entries in use, 0 to 16 (R18). -/
  sp      : Fin 17
  /-- `DT` (R19). -/
  dt      : Byte
  /-- `ST` (R20). -/
  st      : Byte
  /-- `KEYS[0..15]` (R21). -/
  keys    : Vector Bool 16
  /-- `FB[0..2047]` (R22). -/
  fb      : FrameBuffer
  /-- `REDRAW` (R23). -/
  redraw  : Bool
  /-- `CTRL` (R24). -/
  ctrl    : Control
  /-- `KX` (R25). -/
  kx      : RegIdx
  /-- `FAULT` (R28). -/
  fault   : Option FaultRecord
  /-- The model's own: the events the surroundings have scheduled and the core has not taken yet, the next one first
  (R170). Log entry 10. -/
  pending : List Event
  /-- The model's own: no Step and no LoadRom has happened since Reset, so LoadRom is legal (R178). Log entry 11. -/
  romOpen : Bool
  /-- The model's own: how many random bytes have been drawn (R123). Log entry 8. -/
  draws   : Nat
deriving DecidableEq, Repr

/-- The state right after Reset (R30, R190). `PC` and `CTRL` are the source's; the zeros are decision D6 of the spec under
`RESET_VALUES = zero` (log entry 7); memory lists nothing, so it reads as the font and zeros (log entry 15). -/
def State.reset : State where
  mem     := []
  v       := Vector.replicate 16 0#8
  index   := 0#16
  pc      := 0x200#16
  stack   := Vector.replicate 16 0#16
  sp      := 0
  dt      := 0#8
  st      := 0#8
  keys    := Vector.replicate 16 false
  fb      := 0#2048
  redraw  := false
  ctrl    := .running
  kx      := 0#4
  fault   := none
  pending := []
  romOpen := true
  draws   := 0

end Sys2Proof.Machine
end

