-- ==== Sys2Proof/Machine/Ops.lean ====
section
/-!
DEFINITION. The named operations over memory, registers, program counter, stack and fault latch that the meanings share.
-/

namespace Sys2Proof.Machine

/-! ### Memory (spec/20_memory.md) -/

/-- The reset contents of an address for a value of `FONT`: the font at 0..79 and 0 above (R30, R32, R41). -/
def Memory.resetByte (font : Font) (a : Nat) : Byte := font.toList.getD a 0#8

/-- What an address that memory does not list reads as: the reset contents under the font the model takes. Memory under
another font lists the bytes that differ (`Memory.loadFont`). Log entries 6, 7 and 15. -/
def Memory.unlisted (a : Nat) : Byte := Memory.resetByte paramFont a

/-- The byte at an address (R40). Callers check the range first (R48). -/
def Memory.read : Memory → Nat → Byte
  | [], a => Memory.unlisted a
  | (k, b) :: rest, a => if k = a then b else Memory.read rest a

/-- Put a byte at an address of a sorted list, keeping the canonical form: an entry equal to what the address reads as
unlisted is not kept. -/
def Memory.put : Memory → Nat → Byte → Memory
  | [], a, b => if b = Memory.unlisted a then [] else [(a, b)]
  | (k, c) :: rest, a, b =>
    if a < k then (if b = Memory.unlisted a then (k, c) :: rest else (a, b) :: (k, c) :: rest)
    else if a = k then (if b = Memory.unlisted a then rest else (a, b) :: rest)
    else (k, c) :: Memory.put rest a b

/-- `MemWrite(addr, 1, v)` (R8): addresses 0..4095 exist; above them nothing is written. Callers check the range first and
raise MemoryFault (R48). -/
def Memory.write (m : Memory) (a : Nat) (b : Byte) : Memory :=
  if a < Config.memBytes then Memory.put m a b else m

/-- Write a list of bytes at consecutive addresses from `a` upward. The addresses are distinct and the instruction is
atomic, so the order of the writes cannot be observed (R50, R51). -/
def Memory.writeBytes (m : Memory) (a : Nat) : List Byte → Memory
  | [] => m
  | b :: bs => Memory.write (Memory.writeBytes m (a + 1) bs) a b

/-- `load_font()` for a value of `FONT`: the 80 bytes at addresses 0 to 79 (R32, R190). -/
def Memory.loadFont (font : Font) (m : Memory) : Memory := Memory.writeBytes m 0 font.toList

/-- The canonical form: addresses strictly rising and below 4096, no entry that says what is said unlisted. -/
def Memory.wf : Memory → Bool
  | [] => true
  | (k, b) :: rest =>
    decide (k < Config.memBytes) && decide (b ≠ Memory.unlisted k) && rest.all (fun c => decide (k < c.1)) && Memory.wf rest

/-- `MemRead(addr, 2)`, used by the fetch alone: two bytes, big-endian (R8, R42, R44). -/
def Memory.readWord (m : Memory) (a : Nat) : Word := wordOfBytes (Memory.read m a) (Memory.read m (a + 1))

/-! ### General registers (R11) -/

/-- `V[x]`. -/
def getV (s : State) (x : RegIdx) : Byte := s.v[x.toNat]

/-- `V[x] <- b`. -/
def setV (x : RegIdx) (b : Byte) (s : State) : State := { s with v := s.v.set x.toNat b }

/-- `V[0..count-1]` as a list, `V[0]` first (R152). -/
def regList (s : State) (count : Nat) : List Byte := (List.range count).map fun k => getV s (BitVec.ofNat 4 k)

/-- Load `V[0..count-1]` from consecutive addresses, `V[0]` from `base` (R153). -/
def loadRegs (m : Memory) (base : Nat) : Nat → State → State
  | 0, s => s
  | k + 1, s => setV (BitVec.ofNat 4 k) (Memory.read m (base + k)) (loadRegs m base k s)

/-! ### Index register and timers (R14, R19, R20) -/

/-- `I <- w`. -/
def setIndex (w : Word) (s : State) : State := { s with index := w }

/-- `DT <- b`. -/
def setDt (b : Byte) (s : State) : State := { s with dt := b }

/-- `ST <- b`. -/
def setSt (b : Byte) (s : State) : State := { s with st := b }

/-! ### Memory, framebuffer and key wait as state updates -/

/-- `MEM` replaced. -/
def setMem (m : Memory) (s : State) : State := { s with mem := m }

/-- The framebuffer replaced and `REDRAW` raised, as every completed ClearDisplay and DrawSprite does (R23, R82, R136). -/
def showFrame (fb : FrameBuffer) (s : State) : State := { s with fb := fb, redraw := true }

/-- `KX <- x; CTRL <- AwaitingKey` (R145). -/
def awaitKey (x : RegIdx) (s : State) : State := { s with kx := x, ctrl := .awaitingKey }

/-- `draws` advanced: the next random byte is a different one (R123). -/
def countDraw (s : State) : State := { s with draws := s.draws + 1 }

/-! ### Program counter (R15, R16) -/

/-- `PC <- w`. -/
def setPc (w : Word) (s : State) : State := { s with pc := w }

/-- `PC <- PC + 2`, the instruction's own address plus its length. -/
def advance (s : State) : State := setPc (s.pc + 2#16) s

/-- A skip: `PC <- PC + 4` if the condition holds, else `PC <- PC + 2` (R90). -/
def skipIf (c : Bool) (s : State) : State := if c then setPc (s.pc + 4#16) s else advance s

/-! ### Stack (R18) -/

/-- `STACK[SP] <- w; SP <- SP + 1`, none when 16 entries are in use (R85). -/
def pushStack (w : Word) (s : State) : Option State :=
  if h : s.sp.val < 16 then
    some { s with stack := s.stack.set s.sp.val w h, sp := ⟨s.sp.val + 1, Nat.succ_lt_succ h⟩ }
  else none

/-- `SP <- SP - 1` and the entry just uncovered, none when the stack is empty; the entry keeps its bits (R83). -/
def popStack (s : State) : Option (Word × State) :=
  if h : 0 < s.sp.val then
    some (s.stack[s.sp.val - 1]'(by omega), { s with sp := ⟨s.sp.val - 1, by omega⟩ })
  else none

/-! ### Taking a fault (R28, R160, R161, R168) -/

/-- The 3-bit code of a fault kind; 0 is `None` (R161, decision D16). -/
def FaultKind.code : FaultKind → BitVec 3
  | .decodeError => 1#3
  | .stackOverflow => 2#3
  | .stackUnderflow => 3#3
  | .romTooLarge => 4#3
  | .memoryFault => 5#3
  | .pcMisaligned => 6#3
  | .keyIndexFault => 7#3

/-- The fault entry: `FAULT` receives the record and nothing else changes (R168). There is no return from a fault but the
Reset event (R169, Machine/Events.lean). -/
def latchFault (r : FaultRecord) (s : State) : State := { s with fault := some r }

/-- `raise K(pc = PC, instr, addr)`: `PC` is the faulting instruction's own address and is kept (R8, R28). -/
def raise (k : FaultKind) (instr addr : Word) (s : State) : State := latchFault ⟨k, s.pc, instr, addr⟩ s

/-- The lowest out-of-range address of an access from `base` upward: `max(base, 4096)` (R28, R45, R48). -/
def lowestOutOfRange (base : Word) : Word := if base.toNat < Config.memBytes then 4096#16 else base

/-- The range check of an access to `MEM[I .. I + e]` on integers, before any access (R48): `done` is the state the
instruction leaves when the whole range exists, and otherwise it raises MemoryFault with no other effect. -/
def withinMemory (e : Nat) (instr : Word) (s : State) (done : State) : State :=
  if s.index.toNat + e < Config.memBytes then done else raise .memoryFault instr (lowestOutOfRange s.index) s

end Sys2Proof.Machine
end

