-- ==== Sys2Proof/Machine/Operands.lean ====
section
/-!
DEFINITION. The operand forms (spec/30_encoding.md R64): register, 8-bit immediate, 12-bit address, sprite position, key
number. An 8-bit immediate is used as it is.
-/

namespace Sys2Proof.Machine

/-- A 12-bit address zero-extended to the 16 bits of `PC` or `I` (R64). -/
def zext12 (nnn : Addr12) : Word := nnn.setWidth 16

/-- A register value zero-extended to 16 bits (R8, R86, R121). -/
def zext8 (b : Byte) : Word := b.setWidth 16

/-- The start column of a sprite, `V[x] mod 64` (R131). -/
def spriteColumn (s : State) (x : RegIdx) : Nat := (getV s x).toNat % 64

/-- The start row of a sprite, `V[y] mod 32` (R131). -/
def spriteRow (s : State) (y : RegIdx) : Nat := (getV s y).toNat % 32

/-- `KEYS[k]`, for `k` in 0..15 (R21). -/
def keyLevel (s : State) (k : Nibble) : Bool := s.keys[k.toNat]

/-- The level of the key whose number is a register value, as the key skips read it: for a number above 15 the parameter
`KEY_INDEX` decides, and none means KeyIndexFault (R95). -/
def keyOperand (p : KeyIndexPolicy) (s : State) (k : Byte) : Option Bool :=
  if k.toNat < 16 then some (keyLevel s (k.setWidth 4))
  else match p with
    | .fault => none
    | .mask => some (keyLevel s (k.setWidth 4))
    | .notPressed => some false

end Sys2Proof.Machine
end

