-- ==== Sys2Proof/Machine/Flags.lean ====
section
/-!
DEFINITION. The flag computations (spec/10_state.md R29, spec/43_arith_shift.md R110 to R115): `VF` is written 0 or 1. The
arithmetic is done on natural numbers and narrowed to 8 bits at the end (R116).
-/

namespace Sys2Proof.Machine

/-- A flag as the byte `VF` holds, 1 or 0 (R29). -/
def flagByte (c : Bool) : Byte := if c then 1#8 else 0#8

/-- The carry of an addition: the 9-bit sum exceeds 255 (R111). -/
def carryOut (a b : Byte) : Bool := decide (255 < a.toNat + b.toNat)

/-- No borrow in `a - b`: `a >= b` (R112, R113). -/
def noBorrow (a b : Byte) : Bool := decide (b.toNat ≤ a.toNat)

/-- The bit a right shift shifts out, bit 0 (R114). -/
def bitOutRight (a : Byte) : Bool := a.getLsbD 0

/-- The bit a left shift shifts out, bit 7 (R115). -/
def bitOutLeft (a : Byte) : Bool := a.getLsbD 7

/-- `(a + b) mod 256` (R111). -/
def sumByte (a b : Byte) : Byte := BitVec.ofNat 8 (a.toNat + b.toNat)

/-- `(a - b) mod 256`: `a - b` if `a >= b`, else `a - b + 256` (R112). -/
def diffByte (a b : Byte) : Byte := BitVec.ofNat 8 (a.toNat + 256 - b.toNat)

/-- `a div 2` (R114). -/
def halfByte (a : Byte) : Byte := BitVec.ofNat 8 (a.toNat / 2)

/-- `(a * 2) mod 256` (R115). -/
def doubleByte (a : Byte) : Byte := BitVec.ofNat 8 (a.toNat * 2)

/-- The end of a flag-writing instruction: `V[x] <- r`, then `V[15] <- f`, then `PC <- PC + 2`, so that for `x = 15` the
flag remains; under `VF_DEST = refuse` that case is not modelled (R110). -/
def finishFlagged (p : VfDest) (x : RegIdx) (r : Byte) (f : Bool) (s : State) : Host.Outcome State Fault Refusal :=
  if p = .refuse ∧ x = vfIdx then .refused .vfDestination
  else .next (advance (setV vfIdx (flagByte f) (setV x r s)))

end Sys2Proof.Machine
end

