-- ==== Sys2Proof/Machine/Arith.lean ====
section
/-!
DEFINITION. Arithmetic with flags and shifts (spec/43_arith_shift.md R110 to R116). Result and flag are computed from the
values before the instruction; the flag is written last (R110, decision D12, log entry 9).
-/

namespace Sys2Proof.Machine

/-- AddRegisters `8xy4` (R111). -/
def execAddRegisters (x y : RegIdx) (s : State) : Host.Outcome State Fault Refusal :=
  finishFlagged paramVfDest x (sumByte (getV s x) (getV s y)) (carryOut (getV s x) (getV s y)) s

/-- Subtract `8xy5` (R112). -/
def execSubtract (x y : RegIdx) (s : State) : Host.Outcome State Fault Refusal :=
  finishFlagged paramVfDest x (diffByte (getV s x) (getV s y)) (noBorrow (getV s x) (getV s y)) s

/-- ReverseSubtract `8xy7` (R113). -/
def execReverseSubtract (x y : RegIdx) (s : State) : Host.Outcome State Fault Refusal :=
  finishFlagged paramVfDest x (diffByte (getV s y) (getV s x)) (noBorrow (getV s y) (getV s x)) s

/-- ShiftRight `8xy6` (R114): `V[x]` in place, `y` ignored. -/
def execShiftRight (x _y : RegIdx) (s : State) : Host.Outcome State Fault Refusal :=
  finishFlagged paramVfDest x (halfByte (getV s x)) (bitOutRight (getV s x)) s

/-- ShiftLeft `8xyE` (R115): `V[x]` in place, `y` ignored. -/
def execShiftLeft (x _y : RegIdx) (s : State) : Host.Outcome State Fault Refusal :=
  finishFlagged paramVfDest x (doubleByte (getV s x)) (bitOutLeft (getV s x)) s

end Sys2Proof.Machine
end

