-- ==== Sys2Proof/Machine/BcdBlock.lean ====
section
/-!
DEFINITION. BCD and block transfer instructions (spec/47_bcd_block.md R150 to R153): the machine's only data loads and
stores. `I` is never changed.
-/

namespace Sys2Proof.Machine

/-- The decimal digits of a byte, hundreds first (R151). -/
def bcdDigits (b : Byte) : List Byte :=
  [BitVec.ofNat 8 (b.toNat / 100), BitVec.ofNat 8 (b.toNat / 10 % 10), BitVec.ofNat 8 (b.toNat % 10)]

/-- StoreBcd `Fx33` (R151). -/
def execStoreBcd (x : RegIdx) (s : State) : Host.Outcome State Fault Refusal :=
  .next (withinMemory 2 (encodeWord (.storeBcd x)) s
    (advance (setMem (Memory.writeBytes s.mem s.index.toNat (bcdDigits (getV s x))) s)))

/-- StoreRegistersInMemory `Fx55` (R152): `V[0]` to `V[x]`, inclusive. -/
def execStoreRegistersInMemory (x : RegIdx) (s : State) : Host.Outcome State Fault Refusal :=
  .next (withinMemory x.toNat (encodeWord (.storeRegistersInMemory x)) s
    (advance (setMem (Memory.writeBytes s.mem s.index.toNat (regList s (x.toNat + 1))) s)))

/-- SetRegistersFromMemory `Fx65` (R153): `V[0]` to `V[x]`, inclusive. -/
def execSetRegistersFromMemory (x : RegIdx) (s : State) : Host.Outcome State Fault Refusal :=
  .next (withinMemory x.toNat (encodeWord (.setRegistersFromMemory x)) s
    (advance (loadRegs s.mem s.index.toNat (x.toNat + 1) s)))

end Sys2Proof.Machine
end

