-- ==== Sys2Proof/Machine/Control.lean ====
section
/-!
DEFINITION. Control instructions (spec/40_control.md R80 to R86). In a meaning, `s.pc` is the address of the instruction
itself: the fetch does not advance it (R80).
-/

namespace Sys2Proof.Machine

/-- Nop `0000` (R81). -/
def execNop (s : State) : Host.Outcome State Fault Refusal := .next (advance s)

/-- ClearDisplay `00E0` (R82): all pixels 0, `REDRAW` raised whether or not one changed (decision D21, log entry 22). -/
def execClearDisplay (s : State) : Host.Outcome State Fault Refusal := .next (advance (showFrame 0#2048 s))

/-- SubroutineReturn `00EE` (R83): `PC` takes the entry just uncovered, as it is. -/
def execSubroutineReturn (s : State) : Host.Outcome State Fault Refusal :=
  match popStack s with
  | none => .next (raise .stackUnderflow (encodeWord .subroutineReturn) 0#16 s)
  | some (w, s') => .next (setPc w s')

/-- Jump `1nnn` (R84): the target is not checked here. -/
def execJump (nnn : Addr12) (s : State) : Host.Outcome State Fault Refusal := .next (setPc (zext12 nnn) s)

/-- SubroutineCall `2nnn` (R85): the return address `PC + 2` is pushed (conflict C6, decision D11, log entry 17). -/
def execSubroutineCall (nnn : Addr12) (s : State) : Host.Outcome State Fault Refusal :=
  match pushStack (s.pc + 2#16) s with
  | none => .next (raise .stackOverflow (encodeWord (.subroutineCall nnn)) 0#16 s)
  | some s' => .next (setPc (zext12 nnn) s')

/-- JumpWithOffset `Bnnn` (R86): always `V[0]`, and no reduction modulo 4096 (decision D23, log entry 23). -/
def execJumpWithOffset (nnn : Addr12) (s : State) : Host.Outcome State Fault Refusal :=
  .next (setPc (zext8 (getV s 0#4) + zext12 nnn) s)

end Sys2Proof.Machine
end

