-- ==== Sys2Proof/Machine/Draw.lean ====
section
/-!
DEFINITION. The sprite draw with its collision detector and raster addressing (spec/45_draw.md R130 to R137).
-/

namespace Sys2Proof.Machine

/-- The framebuffer index of pixel `(px, py)`: row-major, `y * 64 + x` (R22, R135). -/
def pixelIndex (px py : Nat) : Nat := py * 64 + px

/-- Invert one pixel; a pixel that was set is a collision, and the collision bit is sticky (R135). -/
def flipPixel (j : Nat) (acc : FrameBuffer × Bool) : FrameBuffer × Bool :=
  (acc.1 ^^^ BitVec.twoPow 2048 j, acc.2 || acc.1.getLsbD j)

/-- A set sprite bit at column `px`, row `py`, for a value of `DRAW_EDGE` (R134). -/
def plotPixel (edge : DrawEdge) (px py : Nat) (acc : FrameBuffer × Bool) : FrameBuffer × Bool :=
  match edge with
  | .clip => if px < 64 ∧ py < 32 then flipPixel (pixelIndex px py) acc else acc
  | .wrap => flipPixel (pixelIndex (px % 64) (py % 32)) acc

/-- One sprite row: bit 7 of the byte is the leftmost pixel, and a 0 bit leaves its pixel alone (R133). -/
def drawRow (edge : DrawEdge) (b : Byte) (x0 py : Nat) (acc : FrameBuffer × Bool) : FrameBuffer × Bool :=
  (List.range 8).foldl (fun a col => if b.getLsbD (7 - col) then plotPixel edge (x0 + col) py a else a) acc

/-- `n` sprite rows; row `row` is the byte at `base + row`, drawn at framebuffer row `y0 + row` (R132, R133). -/
def drawRows (edge : DrawEdge) (m : Memory) (base x0 y0 n : Nat) (acc : FrameBuffer × Bool) : FrameBuffer × Bool :=
  (List.range n).foldl (fun a row => drawRow edge (Memory.read m (base + row)) x0 (y0 + row) a) acc

/-- The state a DrawSprite in range leaves (R136): `V[x]` and `V[y]` are read before `VF` is written (R131). -/
def drawn (edge : DrawEdge) (x y : RegIdx) (n : Nat) (s : State) : State :=
  let r := drawRows edge s.mem s.index.toNat (spriteColumn s x) (spriteRow s y) n (s.fb, false)
  advance (showFrame r.1 (setV vfIdx (flagByte r.2) s))

/-- DrawSprite for a value of `DRAW_EDGE` (R130): with `n = 0` there is no access and no range check (R137). -/
def drawSpriteWith (edge : DrawEdge) (x y : RegIdx) (n : Nibble) (s : State) : State :=
  if n.toNat = 0 then drawn edge x y 0 s
  else withinMemory (n.toNat - 1) (encodeWord (.drawSprite x y n)) s (drawn edge x y n.toNat s)

/-- DrawSprite `Dxyn` (R130). -/
def execDrawSprite (x y : RegIdx) (n : Nibble) (s : State) : Host.Outcome State Fault Refusal :=
  .next (drawSpriteWith paramDrawEdge x y n s)

end Sys2Proof.Machine
end

