-- ==== Sys2Proof/Machine/IndexRandom.lean ====
section
/-!
DEFINITION. Index register and random instructions (spec/44_index_random.md R120 to R123).
-/

namespace Sys2Proof.Machine

/-- SetIndex `Annn` (R120). -/
def execSetIndex (nnn : Addr12) (s : State) : Host.Outcome State Fault Refusal :=
  .next (advance (setIndex (zext12 nnn) s))

/-- AddToIndex `Fx1E` (R121, R122): modulo 65536, no flag (decision D13, log entry 21). -/
def execAddToIndex (x : RegIdx) (s : State) : Host.Outcome State Fault Refusal :=
  .next (advance (setIndex (BitVec.ofNat 16 (s.index.toNat + (getV s x).toNat)) s))

/-- Random `Cxnn` (R123): the draw is a free value, and every execution takes a fresh one (log entry 8). -/
def execRandom (x : RegIdx) (nn : Byte) (s : State) : Host.Outcome State Fault Refusal :=
  .next (advance (countDraw (setV x (Config.randomByte s.draws &&& nn) s)))

end Sys2Proof.Machine
end

