-- ==== Sys2Proof/Machine/Skip.lean ====
section
/-!
DEFINITION. Skip instructions (spec/41_skip.md R90 to R96).
-/

namespace Sys2Proof.Machine

/-- SkipIfEqualImm `3xnn` (R91). -/
def execSkipIfEqualImm (x : RegIdx) (nn : Byte) (s : State) : Host.Outcome State Fault Refusal :=
  .next (skipIf (getV s x == nn) s)

/-- SkipIfNotEqualImm `4xnn` (R92). -/
def execSkipIfNotEqualImm (x : RegIdx) (nn : Byte) (s : State) : Host.Outcome State Fault Refusal :=
  .next (skipIf (getV s x != nn) s)

/-- SkipIfEqualReg `5xy0` (R93). -/
def execSkipIfEqualReg (x y : RegIdx) (s : State) : Host.Outcome State Fault Refusal :=
  .next (skipIf (getV s x == getV s y) s)

/-- SkipIfNotEqualReg `9xy0` (R94). -/
def execSkipIfNotEqualReg (x y : RegIdx) (s : State) : Host.Outcome State Fault Refusal :=
  .next (skipIf (getV s x != getV s y) s)

/-- A key skip for a value of `KEY_INDEX`: skip when the level of key `V[x]` is `want`; KeyIndexFault where the key number
is above 15 and the parameter says so (R95, R96). -/
def keySkip (p : KeyIndexPolicy) (want : Bool) (x : RegIdx) (instr : Word) (s : State) : State :=
  match keyOperand p s (getV s x) with
  | none => raise .keyIndexFault instr 0#16 s
  | some level => skipIf (level == want) s

/-- SkipIfKeyPressed `Ex9E` (R95). -/
def execSkipIfKeyPressed (x : RegIdx) (s : State) : Host.Outcome State Fault Refusal :=
  .next (keySkip paramKeyIndex true x (encodeWord (.skipIfKeyPressed x)) s)

/-- SkipIfKeyNotPressed `ExA1` (R96). -/
def execSkipIfKeyNotPressed (x : RegIdx) (s : State) : Host.Outcome State Fault Refusal :=
  .next (keySkip paramKeyIndex false x (encodeWord (.skipIfKeyNotPressed x)) s)

end Sys2Proof.Machine
end

