-- ==== Sys2Proof/Machine/TimerKey.lean ====
section
/-!
DEFINITION. Timer, font-address and key-wait instructions (spec/46_timer_key.md R140 to R145). The completion of the key
wait is an event, not an instruction (R146, Machine/Events.lean).
-/

namespace Sys2Proof.Machine

/-- GetDelayTimer `Fx07` (R141). -/
def execGetDelayTimer (x : RegIdx) (s : State) : Host.Outcome State Fault Refusal :=
  .next (advance (setV x s.dt s))

/-- SetDelayTimer `Fx15` (R142). -/
def execSetDelayTimer (x : RegIdx) (s : State) : Host.Outcome State Fault Refusal :=
  .next (advance (setDt (getV s x) s))

/-- SetSoundTimer `Fx18` (R143). -/
def execSetSoundTimer (x : RegIdx) (s : State) : Host.Outcome State Fault Refusal :=
  .next (advance (setSt (getV s x) s))

/-- SetIndexToSprite `Fx29` (R144): the whole register times 5, no mask. -/
def execSetIndexToSprite (x : RegIdx) (s : State) : Host.Outcome State Fault Refusal :=
  .next (advance (setIndex (BitVec.ofNat 16 ((getV s x).toNat * 5)) s))

/-- StoreNextKeypress `Fx0A`, the issuing step (R145): `PC` advances and `x` is latched now (decision D15, log entry 18). -/
def execStoreNextKeypress (x : RegIdx) (s : State) : Host.Outcome State Fault Refusal :=
  .next (advance (awaitKey x s))

end Sys2Proof.Machine
end

