-- ==== Sys2Proof/Machine/Transfer.lean ====
section
/-!
DEFINITION. Immediate and register transfer, and the bitwise instructions (spec/42_transfer_bitwise.md R100 to R106). None
writes `VF` as a side effect (R100).
-/

namespace Sys2Proof.Machine

/-- SetRegister `6xnn` (R101). -/
def execSetRegister (x : RegIdx) (nn : Byte) (s : State) : Host.Outcome State Fault Refusal :=
  .next (advance (setV x nn s))

/-- AddImmediate `7xnn` (R102): wraps modulo 256, no flag. -/
def execAddImmediate (x : RegIdx) (nn : Byte) (s : State) : Host.Outcome State Fault Refusal :=
  .next (advance (setV x (sumByte (getV s x) nn) s))

/-- CopyRegister `8xy0` (R103). -/
def execCopyRegister (x y : RegIdx) (s : State) : Host.Outcome State Fault Refusal :=
  .next (advance (setV x (getV s y) s))

/-- Or `8xy1` (R104). -/
def execOr (x y : RegIdx) (s : State) : Host.Outcome State Fault Refusal :=
  .next (advance (setV x (getV s x ||| getV s y) s))

/-- And `8xy2` (R105). -/
def execAnd (x y : RegIdx) (s : State) : Host.Outcome State Fault Refusal :=
  .next (advance (setV x (getV s x &&& getV s y) s))

/-- Xor `8xy3` (R106). -/
def execXor (x y : RegIdx) (s : State) : Host.Outcome State Fault Refusal :=
  .next (advance (setV x (getV s x ^^^ getV s y) s))

end Sys2Proof.Machine
end

