-- ==== Sys2Proof/Machine/Dispatch.lean ====
section
/-!
DEFINITION. The dispatch: one arm per constructor of Instr, each one direct call of that instruction's meaning
(spec/30_encoding.md R60, step 5).
-/

namespace Sys2Proof.Machine

def exec (i : Instr) (s : State) : Host.Outcome State Fault Refusal :=
  match i with
  | .nop => Sys2Proof.Machine.execNop s
  | .clearDisplay => Sys2Proof.Machine.execClearDisplay s
  | .subroutineReturn => Sys2Proof.Machine.execSubroutineReturn s
  | .jump nnn => Sys2Proof.Machine.execJump nnn s
  | .subroutineCall nnn => Sys2Proof.Machine.execSubroutineCall nnn s
  | .skipIfEqualImm x nn => Sys2Proof.Machine.execSkipIfEqualImm x nn s
  | .skipIfNotEqualImm x nn => Sys2Proof.Machine.execSkipIfNotEqualImm x nn s
  | .skipIfEqualReg x y => Sys2Proof.Machine.execSkipIfEqualReg x y s
  | .setRegister x nn => Sys2Proof.Machine.execSetRegister x nn s
  | .addImmediate x nn => Sys2Proof.Machine.execAddImmediate x nn s
  | .copyRegister x y => Sys2Proof.Machine.execCopyRegister x y s
  | .or x y => Sys2Proof.Machine.execOr x y s
  | .and x y => Sys2Proof.Machine.execAnd x y s
  | .xor x y => Sys2Proof.Machine.execXor x y s
  | .addRegisters x y => Sys2Proof.Machine.execAddRegisters x y s
  | .subtract x y => Sys2Proof.Machine.execSubtract x y s
  | .shiftRight x y => Sys2Proof.Machine.execShiftRight x y s
  | .reverseSubtract x y => Sys2Proof.Machine.execReverseSubtract x y s
  | .shiftLeft x y => Sys2Proof.Machine.execShiftLeft x y s
  | .skipIfNotEqualReg x y => Sys2Proof.Machine.execSkipIfNotEqualReg x y s
  | .setIndex nnn => Sys2Proof.Machine.execSetIndex nnn s
  | .jumpWithOffset nnn => Sys2Proof.Machine.execJumpWithOffset nnn s
  | .random x nn => Sys2Proof.Machine.execRandom x nn s
  | .drawSprite x y n => Sys2Proof.Machine.execDrawSprite x y n s
  | .skipIfKeyPressed x => Sys2Proof.Machine.execSkipIfKeyPressed x s
  | .skipIfKeyNotPressed x => Sys2Proof.Machine.execSkipIfKeyNotPressed x s
  | .getDelayTimer x => Sys2Proof.Machine.execGetDelayTimer x s
  | .storeNextKeypress x => Sys2Proof.Machine.execStoreNextKeypress x s
  | .setDelayTimer x => Sys2Proof.Machine.execSetDelayTimer x s
  | .setSoundTimer x => Sys2Proof.Machine.execSetSoundTimer x s
  | .addToIndex x => Sys2Proof.Machine.execAddToIndex x s
  | .setIndexToSprite x => Sys2Proof.Machine.execSetIndexToSprite x s
  | .storeBcd x => Sys2Proof.Machine.execStoreBcd x s
  | .storeRegistersInMemory x => Sys2Proof.Machine.execStoreRegistersInMemory x s
  | .setRegistersFromMemory x => Sys2Proof.Machine.execSetRegistersFromMemory x s

end Sys2Proof.Machine
end

