-- ==== Sys2Proof/Machine/Events.lean ====
section
/-!
DEFINITION. The events of the surroundings (spec/60_exceptions.md R170 to R179, spec/70_reset_and_hazards.md R190 to R194)
and the outputs (spec/10_state.md R33). The Step event is in Machine/Engine.lean.
-/

namespace Sys2Proof.Machine

/-- `FAULT ≠ None` (R9, R168). -/
def halted (s : State) : Bool := s.fault.isSome

/-- One timer under one Tick: down by one, floor at 0 (R172). -/
def countDown (b : Byte) : Byte := if b = 0#8 then 0#8 else b - 1#8

/-- Tick (R172); no effect in Halted (R179). -/
def tick (s : State) : State := if halted s then s else setSt (countDown s.st) (setDt (countDown s.dt) s)

/-- `KEYS[k] <- level` for a key code in 0..15; any other code changes nothing (R173, R174; decision D19, log entry 29). -/
def setKey (k : Nat) (level : Bool) (s : State) : State :=
  if h : k < 16 then { s with keys := s.keys.set k level } else s

/-- The completion of StoreNextKeypress: `V[KX] <- k; CTRL <- Running` (R146). -/
def completeWait (k : Nat) (s : State) : State := { setV s.kx (BitVec.ofNat 8 k) s with ctrl := .running }

/-- KeyDown (R146, R173); no effect in Halted (R179). -/
def keyDown (k : Nat) (s : State) : State :=
  if halted s || !keyCodeWellFormed k then s
  else match s.ctrl with
    | .awaitingKey => completeWait k (setKey k true s)
    | .running => setKey k true s

/-- KeyUp (R174); no effect in Halted (R179). -/
def keyUp (k : Nat) (s : State) : State := if halted s then s else setKey k false s

/-- RedrawAck (R175); no effect in Halted (R179). -/
def redrawAck (s : State) : State := if halted s then s else { s with redraw := false }

/-- Reset for values of `FONT` and `RESET_VALUES` (R30, R190): the font is loaded; under `zero` every other element is as in
`State.reset`; under `unspecified` the elements the source gives no value for hold those of an arbitrary state `draw`, drawn
once at this Reset, while `PC`, the font, `CTRL`, `SP` and `FAULT` are fixed. The schedule and the count of random draws
belong to the surroundings and are kept (log entry 25). -/
def resetWith (font : Font) (p : ResetValues) (draw : State) (s : State) : State :=
  match p with
  | .zero =>
    { State.reset with mem := Memory.loadFont font State.reset.mem, pending := s.pending, draws := s.draws }
  | .unspecified =>
    { draw with
      mem := Memory.loadFont font draw.mem, pc := State.reset.pc, sp := State.reset.sp, ctrl := State.reset.ctrl,
      fault := State.reset.fault, romOpen := State.reset.romOpen, pending := s.pending, draws := s.draws }

/-- Reset (R177): enabled always, at the parameters the model takes (which leave the drawn state unused). -/
def resetEvent (s : State) : State := resetWith paramFont paramResetValues State.reset s

/-- LoadRom (R178, R192, R193): the ROM is copied to 0x200 and up, or RomTooLarge is raised with nothing copied. Legal only
directly after Reset with no Step and no LoadRom since; otherwise the model refuses (U26, decision D24, log entry 11). -/
def loadRom (bytes : List Byte) (s : State) : Host.Outcome State Fault Refusal :=
  if s.romOpen && !halted s then
    let s' := { s with romOpen := false }
    if romWellFormed bytes then .next (setMem (Memory.writeBytes s'.mem Config.romBase bytes) s')
    else .next (latchFault ⟨.romTooLarge, 0x200#16, 0#16, 0#16⟩ s')
  else .refused .loadRomOutOfOrder

/-! ### Outputs (R33, R176) -/

/-- `sound_active`: `ST > 0` (R20). -/
def soundActive (s : State) : Bool := decide (0 < s.st.toNat)

/-- What the core shows its surroundings between two events (R33): the framebuffer is a copy, and the fault report and the
control state are those of the state. -/
structure Outputs where
  soundActive   : Bool
  redrawPending : Bool
  frame         : FrameBuffer
  fault         : Option FaultRecord
  ctrl          : Control
deriving DecidableEq, Repr

/-- The outputs are pure functions of the state (R33). -/
def outputs (s : State) : Outputs := ⟨soundActive s, s.redraw, s.fb, s.fault, s.ctrl⟩

end Sys2Proof.Machine
end

