-- ==== Sys2Proof/Machine/Engine.lean ====
section
/-!
DEFINITION. The Step event (spec/30_encoding.md R60, spec/60_exceptions.md R167, R171) and the delivery of the next event
(R170).
-/

namespace Sys2Proof.Machine

/-- The checks before the fetch, in their order, for a value of `ODD_PC`: the range of `PC`, then its parity (R45, R46,
R167; decision D17, log entry 24). None when the fetch goes on, else the fault's kind and its `addr`. -/
def fetchFault (odd : OddPc) (pc : Word) : Option (FaultKind × Word) :=
  if 4094 < pc.toNat then some (.memoryFault, lowestOutOfRange pc)
  else if odd = .fault ∧ pc.getLsbD 0 = true then some (.pcMisaligned, 0#16)
  else none

/-- One fetch-decode-execute for given values of the three parameters it depends on (R60): the first step that raises ends
the Step with `FAULT` latched and nothing else changed. -/
def engineStepWith (odd : OddPc) (f0 : Family0Match) (ln : LowNibble59) (s : State) : Host.Outcome State Fault Refusal :=
  match fetchFault odd s.pc with
  | some (k, a) => .next (raise k 0#16 a s)
  | none =>
    match decodeWordWith f0 ln (Memory.readWord s.mem s.pc.toNat) with
    | .error _ => .next (raise .decodeError (Memory.readWord s.mem s.pc.toNat) 0#16 s)
    | .ok i => exec i s

/-- A Step is enabled exactly when `CTRL = Running` and `FAULT = None` (R171). -/
def stepEnabled (s : State) : Bool := decide (s.ctrl = .running) && !halted s

/-- The Step event (R171): when it is enabled, the engine runs, and no LoadRom is legal from then on (R178). A Step that is
not enabled does not happen: nothing changes (log entry 12). -/
def stepEvent (s : State) : Host.Outcome State Fault Refusal :=
  if stepEnabled s then
    engineStepWith paramOddPc paramFamily0Match paramLowNibble59 { s with romOpen := false }
  else .next s

/-- One event (R170). -/
def deliver (e : Event) (s : State) : Host.Outcome State Fault Refusal :=
  match e with
  | .step => stepEvent s
  | .tick => .next (tick s)
  | .keyDown k => .next (keyDown k s)
  | .keyUp k => .next (keyUp k s)
  | .redrawAck => .next (redrawAck s)
  | .reset => .next (resetEvent s)
  | .loadRom bytes => loadRom bytes s

/-- The machine's next transition: the next event the surroundings have scheduled, or, when none is scheduled, a Step
(log entry 10). Halted with nothing scheduled, the machine has stopped for good (log entry 12). -/
def nextEvent (s : State) : Host.Outcome State Fault Refusal :=
  match s.pending with
  | e :: rest => deliver e { s with pending := rest }
  | [] =>
    match s.fault with
    | some r => .fault (.halted r)
    | none => stepEvent s

end Sys2Proof.Machine
end

