-- ==== Sys2Proof/Machine/Step.lean ====
section
/-!
DEFINITION. One step of the machine, and how an instruction is put where the next step fetches it.
-/

namespace Sys2Proof.Machine

/-- One transition of the core: one atomic event (spec/60_exceptions.md R170). -/
def step (s : State) : Host.Outcome State Fault Refusal := Sys2Proof.Machine.nextEvent s

/-- `s` with the instruction whose bits are `w` stored at `PC`, where the next Step fetches (R44), and with what the next
step needs to be that Step: nothing scheduled before it, `CTRL = Running`, `FAULT = None`, and the ROM loaded (this stands
for the LoadRom event). Log entry 13. -/
def State.withFetchWord (s : State) (nbits w : Nat) : State :=
  { s with
    mem := Memory.writeBytes s.mem s.pc.toNat (tableBytes nbits w),
    pending := [],
    ctrl := .running,
    fault := none,
    romOpen := false }

end Sys2Proof.Machine
end

