-- ==== Sys2Proof/Safety.lean ====
section
/-!
DEFINITION. What counts as a safe state and a well-formed run, and the tables of the spec that statements are made with:
which instruction writes which register (spec/10_state.md R13), which store (spec/20_memory.md R55), which can raise a fault
(spec/60_exceptions.md R161), and which pixels a sprite covers (spec/45_draw.md R131 to R135).
-/

namespace Sys2Proof.Machine

/-- No error state: nothing has been latched in `FAULT` (R160). -/
def Safe (s : State) : Prop := s.fault = none

/-- What the fields of a fault record can be, by its kind (R28, R161). -/
def FaultRecord.Proper (r : FaultRecord) : Prop :=
  match r.kind with
  | .decodeError => r.addr = 0#16 ∧ decodeWord r.instr = .error (.unknown r.instr)
  | .stackOverflow => r.addr = 0#16
  | .stackUnderflow => r.addr = 0#16
  | .romTooLarge => r.pc = 0x200#16 ∧ r.instr = 0#16 ∧ r.addr = 0#16
  | .memoryFault => 4096 ≤ r.addr.toNat
  | .pcMisaligned => r.pc.getLsbD 0 = true ∧ r.instr = 0#16 ∧ r.addr = 0#16
  | .keyIndexFault => r.addr = 0#16

/-- The invariant of the machine (R17, R18, R24, R34): it holds after Reset and every step keeps it. `0 ≤ SP ≤ 16` and the
widths are in the types. -/
structure Invariant (s : State) : Prop where
  /-- Memory is in its canonical form, so equal memories are equal data. -/
  memCanonical : s.mem.wf = true
  /-- The largest value `PC` can take is 4350 (R17). -/
  pcBounded : s.pc.toNat ≤ 4350
  /-- A stack entry is a former `PC + 2`, at most 4096 (R17). -/
  returnsBounded : ∀ k : Fin 16, s.stack[k].toNat ≤ 4096
  /-- A waiting machine has not faulted (R34). -/
  waitUnfaulted : s.ctrl = .awaitingKey → s.fault = none
  /-- While LoadRom is still legal the machine has not run (R178). -/
  romUnstarted : s.romOpen = true → s.fault = none ∧ s.ctrl = .running ∧ s.pc = 0x200#16
  /-- What `FAULT` holds is a record its kind allows (R28). -/
  recordProper : ∀ r, s.fault = some r → r.Proper

/-- Whether an instruction can write general register `r` (R13, and R29 for `VF`). -/
def writesReg (i : Instr) (r : RegIdx) : Bool :=
  match i with
  | .setRegister x _ => r == x
  | .addImmediate x _ => r == x
  | .copyRegister x _ => r == x
  | .or x _ => r == x
  | .and x _ => r == x
  | .xor x _ => r == x
  | .random x _ => r == x
  | .getDelayTimer x => r == x
  | .addRegisters x _ => r == x || r == vfIdx
  | .subtract x _ => r == x || r == vfIdx
  | .reverseSubtract x _ => r == x || r == vfIdx
  | .shiftRight x _ => r == x || r == vfIdx
  | .shiftLeft x _ => r == x || r == vfIdx
  | .drawSprite _ _ _ => r == vfIdx
  | .setRegistersFromMemory x => decide (r.toNat ≤ x.toNat)
  | _ => false

/-- How many bytes an instruction stores, from address `I` upward (R55). -/
def storeWidth (i : Instr) : Nat :=
  match i with
  | .storeBcd _ => 3
  | .storeRegistersInMemory x => x.toNat + 1
  | _ => 0

/-- Whether an instruction can raise a fault at execution (R161, R167). -/
def mayRaise (i : Instr) : Bool :=
  match i with
  | .subroutineCall _ => true
  | .subroutineReturn => true
  | .drawSprite _ _ _ => true
  | .storeBcd _ => true
  | .storeRegistersInMemory _ => true
  | .setRegistersFromMemory _ => true
  | .skipIfKeyPressed _ => true
  | .skipIfKeyNotPressed _ => true
  | _ => false

/-- Whether an instruction is one of the six skips (R90). -/
def isSkip (i : Instr) : Bool :=
  match i with
  | .skipIfEqualImm _ _ => true
  | .skipIfNotEqualImm _ _ => true
  | .skipIfEqualReg _ _ => true
  | .skipIfNotEqualReg _ _ => true
  | .skipIfKeyPressed _ => true
  | .skipIfKeyNotPressed _ => true
  | _ => false

/-- Whether an instruction loads `PC` with a target (R16). -/
def isTransfer (i : Instr) : Bool :=
  match i with
  | .jump _ => true
  | .subroutineCall _ => true
  | .subroutineReturn => true
  | .jumpWithOffset _ => true
  | _ => false

/-- `max(base, 4096)`, the lowest out-of-range address from a base upward (R28). -/
def firstMissingAddress (base : Word) : Word := BitVec.ofNat 16 (max base.toNat 4096)

/-- Whether sprite bit `(col, row)` is set: bit `7 - col` of the byte at `base + row` (R132, R133). -/
def spriteBit (m : Memory) (base col row : Nat) : Bool := (Memory.read m (base + row)).getLsbD (7 - col)

/-- Whether a sprite of `n` rows at `(x0, y0)` has a set bit on framebuffer pixel `j`, with clipped edges: pixel `(x, y)` is
`j = y * 64 + x` (R22, R134, R135). -/
def clipCovers (m : Memory) (base x0 y0 n j : Nat) : Bool :=
  decide (x0 ≤ j % 64) && decide (j % 64 < x0 + 8) && decide (y0 ≤ j / 64) && decide (j / 64 < y0 + n) &&
    spriteBit m base (j % 64 - x0) (j / 64 - y0)

/-- The same with wrapped edges: column and row are taken modulo 64 and 32, each independently (R134). -/
def wrapCovers (m : Memory) (base x0 y0 n j : Nat) : Bool :=
  decide ((j % 64 + 64 - x0) % 64 < 8) && decide ((j / 64 + 32 - y0) % 32 < n) &&
    spriteBit m base ((j % 64 + 64 - x0) % 64) ((j / 64 + 32 - y0) % 32)

/-- Some covered pixel is set: the collision of R135, for a coverage. -/
def collides (fb : FrameBuffer) (covers : Nat → Bool) : Bool :=
  (List.range 2048).any fun j => fb.getLsbD j && covers j

end Sys2Proof.Machine
end

