-- ==== Sys2Proof/Certificates/Slice0/Obligations.lean ====
section
/-!
DEFINITION. What is stated of the machine, from the numbered rules of spec/. A form that writes no memory says so by giving
the whole next state (`t = { s with … }` names every field that may differ). Decisions D<n> are the spec's own choices
(spec/92_eei_decisions.md), each with its log entry under notes/assumptions; a statement that rests on one is derived.
-/

open Sys2Proof Sys2Proof.Machine

/-! ### Encoding (spec/30_encoding.md) -/

/-- Decoding the bytes of any instruction gives it back, with the bytes after it left over (R61, R65; the patterns of R66
are decision D1, log entry 16). -/
def Obligations.DecodeInvertsEncode : Prop :=
  ∀ (i : Instr) (rest : List Byte), i.wellFormed = true → decodeBytes (encodeBytes i ++ rest) = .ok (i, rest)

/-- A word that decodes is the word of its instruction: no two words mean the same, and no bit is dropped (R62, R65;
decisions D1, D3, D4, log entries 16, 4, 3). -/
def Obligations.EncodeInvertsDecode : Prop :=
  ∀ (w : Word) (i : Instr), decodeWord w = .ok i → encodeWord i = w

/-- The decoder answers an instruction only for a word of that instruction's row of the opcode map, and rejects, by the
word, exactly the words of no row (R65, R66, R72; decisions D1, D3, D4, log entries 16, 4, 3). -/
def Obligations.DecoderFollowsOpcodeMap : Prop :=
  ∀ w : Word,
    (∀ i, decodeWord w = .ok i → ∃ row ∈ opcodeRows, row.1 = mnemonicOf i ∧ matchesRow w row = true) ∧
    (∀ e, decodeWord w = .error e → e = .unknown w ∧ ∀ row ∈ opcodeRows, matchesRow w row = false)

/-- No word matches two rows of the opcode map (R65: "the rows are disjoint"; patterns by decision D1, log entry 16). -/
def Obligations.OpcodeRowsAreDisjoint : Prop :=
  ∀ (w : Word), ∀ a ∈ opcodeRows, ∀ b ∈ opcodeRows, matchesRow w a = true → matchesRow w b = true → a = b

/-- A word of each of the 16 families, the values 0 to F of the top nibble, decodes to what it stands for, and the source's
four malformed words do not decode. The words are those of spec/95_test_vectors.md 2.1, but for D015 (2.10) and F515 (2.8)
(patterns by decision D1, the words of families 0, 5 and 9 also by D3 and D4, log entries 16, 4, 3). -/
def Obligations.SampleWordsDecode : Prop :=
  decodeWord 0x00E0#16 = .ok .clearDisplay ∧
  decodeWord 0x1FFF#16 = .ok (.jump 0xFFF#12) ∧
  decodeWord 0x2ABC#16 = .ok (.subroutineCall 0xABC#12) ∧
  decodeWord 0x3F00#16 = .ok (.skipIfEqualImm 0xF#4 0x00#8) ∧
  decodeWord 0x4012#16 = .ok (.skipIfNotEqualImm 0x0#4 0x12#8) ∧
  decodeWord 0x5AB0#16 = .ok (.skipIfEqualReg 0xA#4 0xB#4) ∧
  decodeWord 0x6A2B#16 = .ok (.setRegister 0xA#4 0x2B#8) ∧
  decodeWord 0x7A05#16 = .ok (.addImmediate 0xA#4 0x05#8) ∧
  decodeWord 0x8AB7#16 = .ok (.reverseSubtract 0xA#4 0xB#4) ∧
  decodeWord 0x9AB0#16 = .ok (.skipIfNotEqualReg 0xA#4 0xB#4) ∧
  decodeWord 0xA2F0#16 = .ok (.setIndex 0x2F0#12) ∧
  decodeWord 0xBFFF#16 = .ok (.jumpWithOffset 0xFFF#12) ∧
  decodeWord 0xC0FF#16 = .ok (.random 0x0#4 0xFF#8) ∧
  decodeWord 0xD015#16 = .ok (.drawSprite 0x0#4 0x1#4 0x5#4) ∧
  decodeWord 0xEF9E#16 = .ok (.skipIfKeyPressed 0xF#4) ∧
  decodeWord 0xF515#16 = .ok (.setDelayTimer 0x5#4) ∧
  decodeWord 0xFF65#16 = .ok (.setRegistersFromMemory 0xF#4) ∧
  decodeWord 0x00FF#16 = .error (.unknown 0x00FF#16) ∧
  decodeWord 0x8008#16 = .error (.unknown 0x8008#16) ∧
  decodeWord 0xE000#16 = .error (.unknown 0xE000#16) ∧
  decodeWord 0xF0FF#16 = .error (.unknown 0xF0FF#16)

/-- The other values of the decoding and fetch parameters (R6, R46, R67, R68): with `LOW_NIBBLE_5_9 = ignored` every word of
families 5 and 9 is its register skip; with `FAMILY0_MATCH = low_byte` a word of family 0 decodes as the word with bits 11..8
cleared does; with `ODD_PC = allow` parity raises nothing. The model does not take these values (log entries 2, 3, 4). -/
def Obligations.OtherParameterValues : Prop :=
  (∀ (f0 : Family0Match) (w : Word), fieldOp w = 0x5#4 →
    decodeWordWith f0 .ignored w = .ok (.skipIfEqualReg (fieldX w) (fieldY w))) ∧
  (∀ (f0 : Family0Match) (w : Word), fieldOp w = 0x9#4 →
    decodeWordWith f0 .ignored w = .ok (.skipIfNotEqualReg (fieldX w) (fieldY w))) ∧
  (∀ (ln : LowNibble59) (w : Word) (i : Instr), fieldOp w = 0x0#4 →
    (decodeWordWith .lowByte ln w = .ok i ↔ decodeWordWith .word ln (w &&& 0xF0FF#16) = .ok i)) ∧
  (∀ pc : Word, pc.toNat ≤ 4094 → fetchFault .allow pc = none)

/-! ### The Step event (R60, R167, R171) -/

/-- When the two bytes at an even `PC` up to 4094 decode to `i`, an enabled Step is `exec i`, whether the surroundings
scheduled it or nothing is scheduled. Around `exec` a step takes the Step event off the schedule and closes the load window
(`romOpen`, log entry 11); it does not move `PC` (R44, R60, R171). -/
def Obligations.StepRunsDecodedInstruction : Prop :=
  ∀ (s : State) (i : Instr), s.ctrl = .running → s.fault = none → s.pc.toNat ≤ 4094 → s.pc.toNat % 2 = 0 →
    decodeBytes [Memory.read s.mem s.pc.toNat, Memory.read s.mem (s.pc.toNat + 1)] = .ok (i, []) →
    i.wellFormed = true →
    (s.pending = [] → step s = exec i { s with romOpen := false }) ∧
    (∀ rest, s.pending = .step :: rest → step s = exec i { s with pending := rest, romOpen := false })

/-- A word written at `PC` is what the next Step fetches and runs: stores are seen by the next fetch (R44, R53; log entry
13 for what withFetchWord sets besides the bytes). -/
def Obligations.PlacedWordRunsNext : Prop :=
  ∀ (s : State) (w : Nat) (i : Instr), s.mem.wf = true → s.pc.toNat ≤ 4094 → s.pc.toNat % 2 = 0 →
    decodeTableWord 16 w = some i →
    step (s.withFetchWord 16 w) = exec i (s.withFetchWord 16 w)

/-- The faults before execution and their order: range of `PC`, then parity, then decode; each latches its record and changes
nothing else but the model's own schedule and load window. The Step is the one the surroundings scheduled, or the one taken
when nothing is scheduled (`rest` is then empty; log entry 10; the window is log entry 11). (R45, R46, R162, R167, R168;
decisions D5, D16, D17, log entries 2, 19, 24). -/
def Obligations.FetchFaultsInOrder : Prop :=
  ∀ (s : State) (rest : List Event), s.ctrl = .running → s.fault = none →
    (s.pending = [] ∧ rest = []) ∨ s.pending = .step :: rest →
    (4094 < s.pc.toNat →
      step s = .next { s with
        pending := rest, romOpen := false, fault := some ⟨.memoryFault, s.pc, 0#16, firstMissingAddress s.pc⟩ }) ∧
    (s.pc.toNat ≤ 4094 → s.pc.toNat % 2 = 1 →
      step s = .next { s with
        pending := rest, romOpen := false, fault := some ⟨.pcMisaligned, s.pc, 0#16, 0#16⟩ }) ∧
    (s.pc.toNat ≤ 4094 → s.pc.toNat % 2 = 0 →
      ∀ w, w = wordOfBytes (Memory.read s.mem s.pc.toNat) (Memory.read s.mem (s.pc.toNat + 1)) →
      (∀ i, decodeWord w ≠ .ok i) →
      step s = .next { s with
        pending := rest, romOpen := false, fault := some ⟨.decodeError, s.pc, w, 0#16⟩ })

/-- Halted: no event but Reset changes anything, and with nothing scheduled the machine has stopped (R169, R171, R179;
decision D16, log entries 12 and 19). A LoadRom is refused (U26, log entry 11). -/
def Obligations.HaltedCoreIsFrozen : Prop :=
  ∀ (s : State) (r : FaultRecord), s.fault = some r →
    (s.pending = [] → step s = .fault (.halted r)) ∧
    (∀ e rest, s.pending = e :: rest → e ≠ .reset → (∀ bytes, e ≠ .loadRom bytes) →
      step s = .next { s with pending := rest }) ∧
    (∀ bytes rest, s.pending = .loadRom bytes :: rest → step s = .refused .loadRomOutOfOrder)

/-- In AwaitingKey no Step is enabled: a scheduled one does nothing, and with nothing scheduled the machine waits for ever
(R145, R171, R186; log entry 12). -/
def Obligations.WaitingCoreTakesNoStep : Prop :=
  ∀ s : State, s.ctrl = .awaitingKey → s.fault = none →
    (s.pending = [] → step s = .next s) ∧
    (∀ rest, s.pending = .step :: rest → step s = .next { s with pending := rest })

/-- A key wait is left by KeyDown with a code up to 15 or by Reset, and by nothing else (R146, R186; decision D15, log entry
18). -/
def Obligations.OnlyKeyDownOrResetEndsWait : Prop :=
  ∀ s t : State, s.ctrl = .awaitingKey → step s = .next t → t.ctrl = .running →
    ∃ rest, s.pending = .reset :: rest ∨ ∃ k, k < 16 ∧ s.pending = .keyDown k :: rest

/-! ### The other events (R172 to R179, R190 to R193) -/

/-- One Tick (R172) takes each nonzero timer down by one and leaves a zero timer at zero, in both control states; it changes
nothing else. In Halted it has no effect (R179; decision D16, log entry 19). The schedule is log entry 10. -/
def Obligations.TickCountsTimersDown : Prop :=
  ∀ (s : State) (rest : List Event), s.pending = .tick :: rest →
    (s.fault = none → ∃ t, step s = .next t ∧ t.dt.toNat = s.dt.toNat - 1 ∧ t.st.toNat = s.st.toNat - 1 ∧
      t = { s with dt := t.dt, st := t.st, pending := rest }) ∧
    (∀ r, s.fault = some r → step s = .next { s with pending := rest })

/-- A KeyDown during the wait writes the key code into `V[KX]`, sets the key's bit and resumes (R146, R173; decision D15, log
entry 18). -/
def Obligations.KeyDownCompletesWait : Prop :=
  ∀ (s : State) (k : Nat) (rest : List Event), s.fault = none → s.ctrl = .awaitingKey → k < 16 →
    s.pending = .keyDown k :: rest →
    ∃ t, step s = .next t ∧
      (∀ r, getV t r = if r = s.kx then BitVec.ofNat 8 k else getV s r) ∧
      (∀ j : Fin 16, t.keys[j] = if j.val = k then true else s.keys[j]) ∧
      t = { s with v := t.v, keys := t.keys, ctrl := .running, pending := rest }

/-- KeyDown in Running and KeyUp in either control state change one key's bit; a code above 15 changes nothing (R173, R174;
decision D19, log entry 29). -/
def Obligations.KeyEventsChangeOneKey : Prop :=
  ∀ (s : State) (k : Nat) (rest : List Event), s.fault = none →
    (s.pending = .keyDown k :: rest → k < 16 → s.ctrl = .running →
      ∃ t, step s = .next t ∧ (∀ j : Fin 16, t.keys[j] = if j.val = k then true else s.keys[j]) ∧
        t = { s with keys := t.keys, pending := rest }) ∧
    (s.pending = .keyUp k :: rest → k < 16 →
      ∃ t, step s = .next t ∧ (∀ j : Fin 16, t.keys[j] = if j.val = k then false else s.keys[j]) ∧
        t = { s with keys := t.keys, pending := rest }) ∧
    (s.pending = .keyDown k :: rest ∨ s.pending = .keyUp k :: rest → 15 < k → step s = .next { s with pending := rest })

/-- RedrawAck clears `REDRAW` and nothing else (R175; R179 for Halted is HaltedCoreIsFrozen). -/
def Obligations.RedrawAckClearsRedraw : Prop :=
  ∀ (s : State) (rest : List Event), s.fault = none → s.pending = .redrawAck :: rest →
    step s = .next { s with redraw := false, pending := rest }

/-- Tick, KeyDown, KeyUp and RedrawAck write no memory, `PC`, `I`, stack, framebuffer or fault, and no general register but
the target of a key wait (R10, R51, R170, R194). -/
def Obligations.HostEventsLeaveProgramState : Prop :=
  ∀ (s : State) (e : Event) (rest : List Event), s.pending = e :: rest → e ≠ .step → e ≠ .reset →
    (∀ bytes, e ≠ .loadRom bytes) →
    ∃ t, step s = .next t ∧
      t = { s with
        v := t.v, dt := t.dt, st := t.st, keys := t.keys, redraw := t.redraw, ctrl := t.ctrl, pending := rest } ∧
      (∀ r, r ≠ s.kx → getV t r = getV s r) ∧ (s.ctrl = .running → t.v = s.v ∧ t.ctrl = .running)

/-- The state after Reset (R30, R32, R190): `PC`, `CTRL` are the source's; the zeros are decision D6 (log entry 7), the font
bytes decision D7 (log entry 6), `FAULT` decision D16 (log entry 19). -/
def Obligations.ResetStateValues : Prop :=
  State.reset.pc = 0x200#16 ∧ State.reset.ctrl = .running ∧ State.reset.fault = none ∧ State.reset.sp.val = 0 ∧
  State.reset.index = 0#16 ∧ State.reset.dt = 0#8 ∧ State.reset.st = 0#8 ∧ State.reset.fb = 0#2048 ∧
  State.reset.redraw = false ∧ State.reset.kx = 0#4 ∧
  (∀ r, getV State.reset r = 0#8) ∧ (∀ k : Fin 16, State.reset.stack[k] = 0#16) ∧
  (∀ k : Fin 16, State.reset.keys[k] = false) ∧
  (List.range 80).map (Memory.read State.reset.mem) =
    [0xF0, 0x90, 0x90, 0x90, 0xF0, 0x20, 0x60, 0x20, 0x20, 0x70, 0xF0, 0x10, 0xF0, 0x80, 0xF0, 0xF0, 0x10, 0xF0, 0x10, 0xF0,
     0x90, 0x90, 0xF0, 0x10, 0x10, 0xF0, 0x80, 0xF0, 0x10, 0xF0, 0xF0, 0x80, 0xF0, 0x90, 0xF0, 0xF0, 0x10, 0x20, 0x40, 0x40] ++
    [0xF0, 0x90, 0xF0, 0x90, 0xF0, 0xF0, 0x90, 0xF0, 0x10, 0xF0, 0xF0, 0x90, 0xF0, 0x90, 0x90, 0xE0, 0x90, 0xE0, 0x90, 0xE0,
     0xF0, 0x80, 0x80, 0x80, 0xF0, 0xE0, 0x90, 0x90, 0x90, 0xE0, 0xF0, 0x80, 0xF0, 0x80, 0xF0, 0xF0, 0x80, 0xF0, 0x80, 0x80] ∧
  (∀ a, 80 ≤ a → Memory.read State.reset.mem a = 0#8)

/-- Reset, in any state, gives the fresh state; the schedule and the count of random draws are the surroundings' (R177, R190;
decision D6 and the model's choice, log entries 7 and 25). -/
def Obligations.ResetEventGivesFreshState : Prop :=
  ∀ (s : State) (rest : List Event), s.pending = .reset :: rest →
    step s = .next { State.reset with pending := rest, draws := s.draws }

/-- LoadRom copies a ROM of up to 3584 bytes to 0x200 and up and changes nothing else but the model's load window (R178,
R192; the window is log entry 11). -/
def Obligations.LoadRomCopiesImage : Prop :=
  ∀ (s : State) (bytes : List Byte) (rest : List Event), s.mem.wf = true → s.romOpen = true → s.fault = none →
    bytes.length ≤ 3584 → s.pending = .loadRom bytes :: rest →
    ∃ t, step s = .next t ∧
      (∀ a, Memory.read t.mem a =
        if 0x200 ≤ a ∧ a < 0x200 + bytes.length then bytes.getD (a - 0x200) 0#8 else Memory.read s.mem a) ∧
      t = { s with mem := t.mem, pending := rest, romOpen := false }

/-- A longer ROM raises RomTooLarge with nothing copied (R165, R193; record by decision D16, log entry 19), and a LoadRom
after a Step or a second one is refused (R178, U26; decision D24, log entry 11). -/
def Obligations.LoadRomFailures : Prop :=
  ∀ (s : State) (bytes : List Byte) (rest : List Event), s.pending = .loadRom bytes :: rest →
    (s.romOpen = true → s.fault = none → 3584 < bytes.length →
      step s = .next { s with
        fault := some ⟨.romTooLarge, 0x200#16, 0#16, 0#16⟩, pending := rest, romOpen := false }) ∧
    (s.romOpen = false → step s = .refused .loadRomOutOfOrder)

/-! ### Control instructions (spec/40_control.md) -/

/-- Nop only advances `PC` (R81). -/
def Obligations.NopAdvances : Prop :=
  ∀ s : State, exec .nop s = .next { s with pc := s.pc + 2#16 }

/-- ClearDisplay clears every pixel and raises `REDRAW`, unconditionally (R82; decision D21, log entry 22). -/
def Obligations.ClearDisplayBlanksFrame : Prop :=
  ∀ s : State, ∃ t, exec .clearDisplay s = .next t ∧ (∀ j, t.fb.getLsbD j = false) ∧
    t = { s with fb := t.fb, redraw := true, pc := s.pc + 2#16 }

/-- Jump loads `nnn`, JumpWithOffset `V[0] + nnn` with no reduction modulo 4096 (R84, R86; decision D23, log entry 23); neither
changes anything else. -/
def Obligations.JumpsLoadPc : Prop :=
  ∀ (nnn : Addr12) (s : State),
    (∃ t, exec (.jump nnn) s = .next t ∧ t.pc.toNat = nnn.toNat ∧ t = { s with pc := t.pc }) ∧
    (∃ t, exec (.jumpWithOffset nnn) s = .next t ∧ t.pc.toNat = (getV s 0#4).toNat + nnn.toNat ∧ t = { s with pc := t.pc })

/-- SubroutineCall pushes `PC + 2` and jumps; with 16 entries in use it raises StackOverflow and changes nothing else (R18,
R85, R163; decisions D11 and D16, log entries 17 and 19). -/
def Obligations.CallPushesReturnAddress : Prop :=
  ∀ (nnn : Addr12) (s : State),
    (s.sp.val < 16 → ∃ t, exec (.subroutineCall nnn) s = .next t ∧ t.sp.val = s.sp.val + 1 ∧
      (∀ k : Fin 16, t.stack[k] = if k.val = s.sp.val then s.pc + 2#16 else s.stack[k]) ∧
      t.pc.toNat = nnn.toNat ∧ t = { s with stack := t.stack, sp := t.sp, pc := t.pc }) ∧
    (s.sp.val = 16 → exec (.subroutineCall nnn) s =
      .next { s with fault := some ⟨.stackOverflow, s.pc, BitVec.ofNat 16 (0x2000 + nnn.toNat), 0#16⟩ })

/-- SubroutineReturn completes in every state with `SP > 0`: it takes `SP` one down, jumps to the entry so uncovered, and
changes nothing else, the entry's bits included. On an empty stack it raises StackUnderflow and changes nothing else (R18,
R83, R163; decisions D11 and D16, log entries 17 and 19). -/
def Obligations.ReturnPopsAddress : Prop :=
  ∀ s : State,
    (0 < s.sp.val → ∃ t, exec .subroutineReturn s = .next t ∧ t.sp.val + 1 = s.sp.val ∧
      (∀ k : Fin 16, s.sp.val = k.val + 1 → t.pc = s.stack[k]) ∧ t = { s with sp := t.sp, pc := t.pc }) ∧
    (s.sp.val = 0 → exec .subroutineReturn s =
      .next { s with fault := some ⟨.stackUnderflow, s.pc, 0x00EE#16, 0#16⟩ })

/-- A call and the return after it come back to the instruction after the call, with the stack depth as before (R83, R85;
decision D11, log entry 17). -/
def Obligations.CallThenReturnComesBack : Prop :=
  ∀ (nnn : Addr12) (s : State), s.sp.val < 16 →
    ∃ t u, exec (.subroutineCall nnn) s = .next t ∧ t.pc.toNat = nnn.toNat ∧ exec .subroutineReturn t = .next u ∧
      u = { s with stack := u.stack, pc := s.pc + 2#16 }

/-! ### Skips (spec/41_skip.md) -/

/-- R91, R92: the immediate skips. -/
def Obligations.ImmediateSkipsCompare : Prop :=
  ∀ (x : RegIdx) (nn : Byte) (s : State),
    exec (.skipIfEqualImm x nn) s = .next { s with pc := s.pc + (if getV s x = nn then 4#16 else 2#16) } ∧
    exec (.skipIfNotEqualImm x nn) s = .next { s with pc := s.pc + (if getV s x ≠ nn then 4#16 else 2#16) }

/-- R93, R94: the register skips; with `x = y` the first always skips and the second never. -/
def Obligations.RegisterSkipsCompare : Prop :=
  ∀ (x y : RegIdx) (s : State),
    exec (.skipIfEqualReg x y) s = .next { s with pc := s.pc + (if getV s x = getV s y then 4#16 else 2#16) } ∧
    exec (.skipIfNotEqualReg x y) s = .next { s with pc := s.pc + (if getV s x ≠ getV s y then 4#16 else 2#16) }

/-- The key skips with a key number in 0..15 follow the level of that key and change nothing but `PC` (R21, R95, R96). -/
def Obligations.KeySkipsFollowKeyLevel : Prop :=
  ∀ (x : RegIdx) (s : State) (k : Fin 16), (getV s x).toNat = k.val →
    exec (.skipIfKeyPressed x) s = .next { s with pc := s.pc + (if s.keys[k] = true then 4#16 else 2#16) } ∧
    exec (.skipIfKeyNotPressed x) s = .next { s with pc := s.pc + (if s.keys[k] = false then 4#16 else 2#16) }

/-- A key number above 15: KeyIndexFault with no other effect under the default, and under the other values of `KEY_INDEX` the
low nibble's key or a released key (R95, R96, R161; decisions D14 and D16, log entries 5 and 19). -/
def Obligations.KeySkipsAboveFifteen : Prop :=
  ∀ (x : RegIdx) (s : State), 15 < (getV s x).toNat →
    exec (.skipIfKeyPressed x) s =
      .next { s with fault := some ⟨.keyIndexFault, s.pc, BitVec.ofNat 16 (0xE09E + 256 * x.toNat), 0#16⟩ } ∧
    exec (.skipIfKeyNotPressed x) s =
      .next { s with fault := some ⟨.keyIndexFault, s.pc, BitVec.ofNat 16 (0xE0A1 + 256 * x.toNat), 0#16⟩ } ∧
    (∀ (want : Bool) (w : Word),
      keySkip .notPressed want x w s = { s with pc := s.pc + (if want = false then 4#16 else 2#16) } ∧
      ∀ k : Fin 16, (getV s x).toNat % 16 = k.val →
        keySkip .mask want x w s = { s with pc := s.pc + (if s.keys[k] = want then 4#16 else 2#16) })

/-! ### Transfers, bitwise, arithmetic (spec/42_transfer_bitwise.md, spec/43_arith_shift.md) -/

/-- R101, R102, R103: SetRegister, AddImmediate and CopyRegister write `V[x]` and advance `PC`; no flag, no other change. -/
def Obligations.TransfersWriteOneRegister : Prop :=
  ∀ (x y : RegIdx) (nn : Byte) (s : State),
    (∃ t, exec (.setRegister x nn) s = .next t ∧ (∀ r, getV t r = if r = x then nn else getV s r) ∧
      t = { s with v := t.v, pc := s.pc + 2#16 }) ∧
    (∃ t, exec (.addImmediate x nn) s = .next t ∧ (getV t x).toNat = ((getV s x).toNat + nn.toNat) % 256 ∧
      (∀ r, r ≠ x → getV t r = getV s r) ∧ t = { s with v := t.v, pc := s.pc + 2#16 }) ∧
    (∃ t, exec (.copyRegister x y) s = .next t ∧ (∀ r, getV t r = if r = x then getV s y else getV s r) ∧
      t = { s with v := t.v, pc := s.pc + 2#16 })

/-- R104, R105, R106: Or, And and Xor, bit by bit, into `V[x]`; `VF` is not written unless it is `V[x]`. -/
def Obligations.BitwiseWriteOneRegister : Prop :=
  ∀ (x y : RegIdx) (s : State),
    (∃ t, exec (.or x y) s = .next t ∧
      (∀ k, (getV t x).getLsbD k = ((getV s x).getLsbD k || (getV s y).getLsbD k)) ∧
      (∀ r, r ≠ x → getV t r = getV s r) ∧ t = { s with v := t.v, pc := s.pc + 2#16 }) ∧
    (∃ t, exec (.and x y) s = .next t ∧
      (∀ k, (getV t x).getLsbD k = ((getV s x).getLsbD k && (getV s y).getLsbD k)) ∧
      (∀ r, r ≠ x → getV t r = getV s r) ∧ t = { s with v := t.v, pc := s.pc + 2#16 }) ∧
    (∃ t, exec (.xor x y) s = .next t ∧
      (∀ k, (getV t x).getLsbD k = ((getV s x).getLsbD k ^^ (getV s y).getLsbD k)) ∧
      (∀ r, r ≠ x → getV t r = getV s r) ∧ t = { s with v := t.v, pc := s.pc + 2#16 })

/-- AddRegisters: the sum modulo 256 in `V[x]`, the carry in `VF`; with `x = 15` the carry remains (R110, R111; decision D12,
log entry 9). -/
def Obligations.AddSetsCarry : Prop :=
  ∀ (x y : RegIdx) (s : State),
    ∃ t, exec (.addRegisters x y) s = .next t ∧
      (x ≠ 15#4 → (getV t x).toNat = ((getV s x).toNat + (getV s y).toNat) % 256) ∧
      (getV t 15#4).toNat = (if 255 < (getV s x).toNat + (getV s y).toNat then 1 else 0) ∧
      (∀ r, r ≠ x → r ≠ 15#4 → getV t r = getV s r) ∧ t = { s with v := t.v, pc := s.pc + 2#16 }

/-- Subtract and ReverseSubtract: the difference modulo 256 in `V[x]`, no-borrow in `VF`; with `x = 15` the flag remains
(R110, R112, R113; decision D12, log entry 9). -/
def Obligations.SubtractionsSetNoBorrow : Prop :=
  ∀ (x y : RegIdx) (s : State),
    (∃ t, exec (.subtract x y) s = .next t ∧
      (x ≠ 15#4 → (getV t x).toNat = ((getV s x).toNat + 256 - (getV s y).toNat) % 256) ∧
      (getV t 15#4).toNat = (if (getV s y).toNat ≤ (getV s x).toNat then 1 else 0) ∧
      (∀ r, r ≠ x → r ≠ 15#4 → getV t r = getV s r) ∧ t = { s with v := t.v, pc := s.pc + 2#16 }) ∧
    (∃ t, exec (.reverseSubtract x y) s = .next t ∧
      (x ≠ 15#4 → (getV t x).toNat = ((getV s y).toNat + 256 - (getV s x).toNat) % 256) ∧
      (getV t 15#4).toNat = (if (getV s x).toNat ≤ (getV s y).toNat then 1 else 0) ∧
      (∀ r, r ≠ x → r ≠ 15#4 → getV t r = getV s r) ∧ t = { s with v := t.v, pc := s.pc + 2#16 })

/-- ShiftRight and ShiftLeft: `V[x]` by one place in place, the bit shifted out in `VF`, `y` without effect; with `x = 15` the
flag remains (R110, R114, R115; decision D12, log entry 9). -/
def Obligations.ShiftsCaptureBitOut : Prop :=
  ∀ (x y : RegIdx) (s : State),
    (∃ t, exec (.shiftRight x y) s = .next t ∧ (x ≠ 15#4 → (getV t x).toNat = (getV s x).toNat / 2) ∧
      (getV t 15#4).toNat = (getV s x).toNat % 2 ∧
      (∀ r, r ≠ x → r ≠ 15#4 → getV t r = getV s r) ∧ t = { s with v := t.v, pc := s.pc + 2#16 }) ∧
    (∃ t, exec (.shiftLeft x y) s = .next t ∧ (x ≠ 15#4 → (getV t x).toNat = (getV s x).toNat * 2 % 256) ∧
      (getV t 15#4).toNat = (getV s x).toNat / 128 ∧
      (∀ r, r ≠ x → r ≠ 15#4 → getV t r = getV s r) ∧ t = { s with v := t.v, pc := s.pc + 2#16 })

/-! ### Index, random, timers, key wait (spec/44_index_random.md, spec/46_timer_key.md) -/

/-- R120, R144: SetIndex loads `nnn`, SetIndexToSprite five times the whole register; neither writes a register or memory. -/
def Obligations.IndexLoads : Prop :=
  ∀ (x : RegIdx) (nnn : Addr12) (s : State),
    (∃ t, exec (.setIndex nnn) s = .next t ∧ t.index.toNat = nnn.toNat ∧
      t = { s with index := t.index, pc := s.pc + 2#16 }) ∧
    (∃ t, exec (.setIndexToSprite x) s = .next t ∧ t.index.toNat = (getV s x).toNat * 5 ∧
      t = { s with index := t.index, pc := s.pc + 2#16 })

/-- AddToIndex adds modulo 65536, with no flag and no fault (R121, R122; decision D13, log entry 21). -/
def Obligations.AddToIndexWraps : Prop :=
  ∀ (x : RegIdx) (s : State),
    ∃ t, exec (.addToIndex x) s = .next t ∧ t.index.toNat = (s.index.toNat + (getV s x).toNat) % 65536 ∧
      t = { s with index := t.index, pc := s.pc + 2#16 }

/-- Random: `V[x]` is the draw and `nn`, whatever byte the draw is, bits outside `nn` are 0, and the next draw is another one
(R123; decision D18, log entry 8: the draw is the free value Config.randomByte at the count `draws`, for every count). -/
def Obligations.RandomMasksFreeByte : Prop :=
  ∀ (x : RegIdx) (nn : Byte) (s : State),
    ∃ t, exec (.random x nn) s = .next t ∧ getV t x = (Config.randomByte s.draws &&& nn) ∧
      (∀ k, nn.getLsbD k = false → (getV t x).getLsbD k = false) ∧
      (∀ r, r ≠ x → getV t r = getV s r) ∧ t = { s with v := t.v, draws := s.draws + 1, pc := s.pc + 2#16 }

/-- R141, R142, R143: the timer transfers. -/
def Obligations.TimerTransfers : Prop :=
  ∀ (x : RegIdx) (s : State),
    (∃ t, exec (.getDelayTimer x) s = .next t ∧ (∀ r, getV t r = if r = x then s.dt else getV s r) ∧
      t = { s with v := t.v, pc := s.pc + 2#16 }) ∧
    exec (.setDelayTimer x) s = .next { s with dt := getV s x, pc := s.pc + 2#16 } ∧
    (∃ t, exec (.setSoundTimer x) s = .next t ∧ (soundActive t = true ↔ 0 < (getV s x).toNat) ∧
      t = { s with st := getV s x, pc := s.pc + 2#16 })

/-- StoreNextKeypress latches `x`, waits, and has advanced `PC`; it looks at no key (R145; decision D15, log entry 18). -/
def Obligations.KeyWaitIssues : Prop :=
  ∀ (x : RegIdx) (s : State),
    exec (.storeNextKeypress x) s = .next { s with kx := x, ctrl := .awaitingKey, pc := s.pc + 2#16 }

/-! ### DrawSprite (spec/45_draw.md) -/

/-- DrawSprite in range, pixel by pixel: each framebuffer bit is exclusive-ored with whether a set sprite bit lies on it,
edges clipped; `VF` is 1 exactly when a set pixel is covered; `REDRAW` is raised; no other register, not `I` and no memory is
written. `V[x]` and `V[y]` are those before `VF` is written, `x` or `y = 15` included (R130 to R136; decisions D8, D9, D12,
D21, log entries 20, 1, 9, 22). -/
def Obligations.DrawSpriteClipsAndCollides : Prop :=
  ∀ (x y : RegIdx) (n : Nibble) (s : State), n.toNat = 0 ∨ s.index.toNat + n.toNat - 1 ≤ 4095 →
    ∀ covers, covers =
      clipCovers s.mem s.index.toNat ((getV s x).toNat % 64) ((getV s y).toNat % 32) n.toNat →
    ∃ t, exec (.drawSprite x y n) s = .next t ∧
      (∀ j, j < 2048 → t.fb.getLsbD j = (s.fb.getLsbD j ^^ covers j)) ∧
      (getV t 15#4).toNat = (if collides s.fb covers = true then 1 else 0) ∧
      (∀ r, r ≠ 15#4 → getV t r = getV s r) ∧
      t = { s with fb := t.fb, v := t.v, redraw := true, pc := s.pc + 2#16 }

/-- The same under `DRAW_EDGE = wrap`, each coordinate reduced on its own (R134; the model does not take this value, decision D9,
log entry 1; bit order by D8, log entry 20). -/
def Obligations.DrawSpriteUnderWrap : Prop :=
  ∀ (x y : RegIdx) (n : Nibble) (s : State), n.toNat = 0 ∨ s.index.toNat + n.toNat - 1 ≤ 4095 →
    ∀ covers, covers =
      wrapCovers s.mem s.index.toNat ((getV s x).toNat % 64) ((getV s y).toNat % 32) n.toNat →
    ∀ t, t = drawSpriteWith .wrap x y n s →
      (∀ j, j < 2048 → t.fb.getLsbD j = (s.fb.getLsbD j ^^ covers j)) ∧
      (getV t 15#4).toNat = (if collides s.fb covers = true then 1 else 0) ∧
      (∀ r, r ≠ 15#4 → getV t r = getV s r) ∧
      t = { s with fb := t.fb, v := t.v, redraw := true, pc := s.pc + 2#16 }

/-- DrawSprite whose rows pass address 4095 raises MemoryFault and draws nothing (R48, R132; decisions D10 and D16, log entry
19). -/
def Obligations.DrawSpriteOutOfRangeFaults : Prop :=
  ∀ (x y : RegIdx) (n : Nibble) (s : State), n.toNat ≠ 0 → 4095 < s.index.toNat + n.toNat - 1 →
    exec (.drawSprite x y n) s = .next { s with
      fault := some ⟨.memoryFault, s.pc, BitVec.ofNat 16 (0xD000 + 256 * x.toNat + 16 * y.toNat + n.toNat),
        firstMissingAddress s.index⟩ }

/-- Drawing the same sprite twice at the same place restores the framebuffer, and the second draw collides exactly when some
covered pixel was clear before the first (R135, R137; decisions D8, D9, log entries 20, 1). When the second collides is
DEDUCED from R135 against the words of R137 (b), log entry 31. `x` or `y = 15` is left out: the first draw writes `VF`, so
the second is at another place. -/
def Obligations.DrawTwiceErases : Prop :=
  ∀ (x y : RegIdx) (n : Nibble) (s : State), x ≠ 15#4 → y ≠ 15#4 →
    n.toNat = 0 ∨ s.index.toNat + n.toNat - 1 ≤ 4095 →
    ∃ t u, exec (.drawSprite x y n) s = .next t ∧ exec (.drawSprite x y n) t = .next u ∧ u.fb = s.fb ∧
      (getV u 15#4).toNat =
        (if collides (~~~s.fb)
            (clipCovers s.mem s.index.toNat ((getV s x).toNat % 64) ((getV s y).toNat % 32) n.toNat) = true
          then 1 else 0)

/-- R137 (b) read word by word, for any framebuffer: the second of two equal draws gives `VF = 1` whenever the sprite has a set
unclipped bit. It FAILS on this machine: where the pixels under the sprite were already set, the first draw clears them and the
second collides with nothing (R135). Log entry 31. -/
def Obligations.SecondDrawAlwaysCollides : Prop :=
  ∀ (x y : RegIdx) (n : Nibble) (s t u : State), x ≠ 15#4 → y ≠ 15#4 →
    (∃ j, j < 2048 ∧
      clipCovers s.mem s.index.toNat ((getV s x).toNat % 64) ((getV s y).toNat % 32) n.toNat j = true) →
    s.index.toNat + n.toNat - 1 ≤ 4095 →
    exec (.drawSprite x y n) s = .next t → exec (.drawSprite x y n) t = .next u → getV u 15#4 = 1#8

/-! ### BCD and block transfer (spec/47_bcd_block.md) -/

/-- StoreBcd in range writes the three decimal digits, hundreds first, one a byte, and nothing else (R151, R150). -/
def Obligations.StoreBcdWritesDigits : Prop :=
  ∀ (x : RegIdx) (s : State), s.mem.wf = true → s.index.toNat + 2 ≤ 4095 →
    ∃ t, exec (.storeBcd x) s = .next t ∧
      (∀ a, (Memory.read t.mem a).toNat =
        if a = s.index.toNat then (getV s x).toNat / 100
        else if a = s.index.toNat + 1 then (getV s x).toNat / 10 % 10
        else if a = s.index.toNat + 2 then (getV s x).toNat % 10
        else (Memory.read s.mem a).toNat) ∧
      t = { s with mem := t.mem, pc := s.pc + 2#16 }

/-- StoreRegistersInMemory in range writes `V[0]` to `V[x]`, inclusive, at `I` and up, and nothing else (R152, R150). -/
def Obligations.StoreRegistersWritesBlock : Prop :=
  ∀ (x : RegIdx) (s : State), s.mem.wf = true → s.index.toNat + x.toNat ≤ 4095 →
    ∃ t, exec (.storeRegistersInMemory x) s = .next t ∧
      (∀ a, Memory.read t.mem a =
        if s.index.toNat ≤ a ∧ a ≤ s.index.toNat + x.toNat then getV s (BitVec.ofNat 4 (a - s.index.toNat))
        else Memory.read s.mem a) ∧
      t = { s with mem := t.mem, pc := s.pc + 2#16 }

/-- SetRegistersFromMemory in range loads `V[0]` to `V[x]`, inclusive, from `I` and up; higher registers and all of memory keep
their values (R153, R150). -/
def Obligations.SetRegistersReadsBlock : Prop :=
  ∀ (x : RegIdx) (s : State), s.index.toNat + x.toNat ≤ 4095 →
    ∃ t, exec (.setRegistersFromMemory x) s = .next t ∧
      (∀ r, getV t r =
        if r.toNat ≤ x.toNat then Memory.read s.mem (s.index.toNat + r.toNat) else getV s r) ∧
      t = { s with v := t.v, pc := s.pc + 2#16 }

/-- The three out of range raise MemoryFault and have no other effect (R48, R150; decisions D10 and D16, log entry 19). -/
def Obligations.BlockTransfersOutOfRangeFault : Prop :=
  ∀ (x : RegIdx) (s : State),
    (4095 < s.index.toNat + 2 → exec (.storeBcd x) s = .next { s with
      fault := some ⟨.memoryFault, s.pc, BitVec.ofNat 16 (0xF033 + 256 * x.toNat), firstMissingAddress s.index⟩ }) ∧
    (4095 < s.index.toNat + x.toNat →
      exec (.storeRegistersInMemory x) s = .next { s with
        fault := some ⟨.memoryFault, s.pc, BitVec.ofNat 16 (0xF055 + 256 * x.toNat), firstMissingAddress s.index⟩ } ∧
      exec (.setRegistersFromMemory x) s = .next { s with
        fault := some ⟨.memoryFault, s.pc, BitVec.ofNat 16 (0xF065 + 256 * x.toNat), firstMissingAddress s.index⟩ })

/-- SetRegistersFromMemory undoes StoreRegistersInMemory at the same `I`, whatever the registers hold in between (R153). -/
def Obligations.StoreThenLoadRestores : Prop :=
  ∀ (x : RegIdx) (s : State), s.mem.wf = true → s.index.toNat + x.toNat ≤ 4095 →
    ∃ t, exec (.storeRegistersInMemory x) s = .next t ∧
      ∀ u : State, u.mem = t.mem → u.index = s.index →
        ∃ w, exec (.setRegistersFromMemory x) u = .next w ∧ ∀ r, r.toNat ≤ x.toNat → getV w r = getV s r

/-! ### Rules over all instructions -/

/-- No instruction writes a general register that R13 and R29 do not name for it. -/
def Obligations.RegisterFrame : Prop :=
  ∀ (i : Instr) (s t : State), exec i s = .next t → ∀ r, writesReg i r = false → getV t r = getV s r

/-- Every byte of memory outside the bytes an instruction stores, `I` and up for as many as R55 gives, reads as before; an
instruction that stores nothing leaves memory the same data. -/
def Obligations.MemoryFrame : Prop :=
  ∀ (i : Instr) (s t : State), s.mem.wf = true → exec i s = .next t →
    (∀ a, ¬ (s.index.toNat ≤ a ∧ a < s.index.toNat + storeWidth i) → Memory.read t.mem a = Memory.read s.mem a) ∧
    (storeWidth i = 0 → t.mem = s.mem)

/-- Who writes each special register (R10, R31): no instruction but the owners named changes it, and none changes the keys, the
schedule or the load window. -/
def Obligations.SpecialRegisterOwners : Prop :=
  ∀ (i : Instr) (s t : State), exec i s = .next t →
    ((∀ nnn, i ≠ .subroutineCall nnn) → t.stack = s.stack) ∧
    ((∀ nnn, i ≠ .subroutineCall nnn) → i ≠ .subroutineReturn → t.sp = s.sp) ∧
    ((∀ x, i ≠ .setDelayTimer x) → t.dt = s.dt) ∧
    ((∀ x, i ≠ .setSoundTimer x) → t.st = s.st) ∧
    ((∀ nnn, i ≠ .setIndex nnn) → (∀ x, i ≠ .addToIndex x) → (∀ x, i ≠ .setIndexToSprite x) → t.index = s.index) ∧
    (i ≠ .clearDisplay → (∀ x y n, i ≠ .drawSprite x y n) → t.fb = s.fb ∧ t.redraw = s.redraw) ∧
    ((∀ x, i ≠ .storeNextKeypress x) → t.ctrl = s.ctrl ∧ t.kx = s.kx) ∧
    ((∀ x nn, i ≠ .random x nn) → t.draws = s.draws) ∧
    t.keys = s.keys ∧ t.pending = s.pending ∧ t.romOpen = s.romOpen

/-- A fault an instruction raises is precise: only the instructions of R161 raise one, the record names the instruction's
address and word, and nothing but `FAULT` changes (R161, R167, R168; decisions D10 and D16, log entries 14 and 19). -/
def Obligations.FaultsArePrecise : Prop :=
  ∀ (i : Instr) (s t : State), exec i s = .next t → t.fault ≠ s.fault →
    mayRaise i = true ∧
    ∃ r : FaultRecord, t = { s with fault := some r } ∧ r.pc = s.pc ∧ r.instr = encodeWord i ∧ r.Proper

/-- How `PC` moves (R16): 2 forward, or 4 for a skip, except for the four transfers; not at all when the instruction faults
(R168; decision D16, log entry 19). A StoreNextKeypress moves it when it issues the wait (R145; decision D15, log entry
18). -/
def Obligations.PcAdvances : Prop :=
  ∀ (i : Instr) (s t : State), s.fault = none → exec i s = .next t →
    (t.fault ≠ none → t.pc = s.pc) ∧
    (t.fault = none → isTransfer i = false → t.pc = s.pc + 2#16 ∨ (isSkip i = true ∧ t.pc = s.pc + 4#16))

/-- No instruction stops the machine or is left without a meaning: exec always answers a next state (R72, R73, R160). -/
def Obligations.EveryInstructionAnswersNext : Prop :=
  ∀ (i : Instr) (s : State), ∃ t, exec i s = .next t

/-- The invariant of the machine is kept by every step, whatever event it takes: memory canonical, `PC` at most 4350, return
addresses at most 4096, a waiting machine unfaulted, the load window only before the first Step, and `FAULT` a record its kind
allows (R17, R18, R24, R28, R34, R178; inferences and decisions of the spec, log entries 11, 15, 17, 19, 23). -/
def Obligations.StepKeepsInvariant : Prop :=
  ∀ s t : State, Invariant s → step s = .next t → Invariant t

/-- The invariant holds after Reset (R30, R34; log entries 7 and 11). -/
def Obligations.ResetMeetsInvariant : Prop := Invariant State.reset

/-- The outputs are functions of the state: sound is active while `ST > 0`, and the framebuffer, `REDRAW`, `FAULT` and `CTRL`
are shown as they are (R20, R33, R176). -/
def Obligations.OutputsFollowState : Prop :=
  ∀ s : State, ((outputs s).soundActive = true ↔ 0 < s.st.toNat) ∧ (outputs s).redrawPending = s.redraw ∧
    (outputs s).frame = s.fb ∧ (outputs s).fault = s.fault ∧ (outputs s).ctrl = s.ctrl
end

