-- ==== Sys2Proof/Laws/Decode.lean ====
section
/-!
SUPPORT. The bits and the fields of a word built from a form (spec/30_encoding.md R62, R63): what the decoder reads back.
-/

namespace Sys2Proof

/-! ### The bits of a form -/

theorem getLsbD_formNnn (op : Nibble) (nnn : Addr12) (k : Nat) :
    (formNnn op nnn).getLsbD k = if k < 12 then nnn.getLsbD k else op.getLsbD (k - 12) :=
  BitVec.getLsbD_append

theorem getLsbD_formXnn (op : Nibble) (x : RegIdx) (nn : Byte) (k : Nat) :
    (formXnn op x nn).getLsbD k =
      if k < 8 then nn.getLsbD k else if k < 12 then x.getLsbD (k - 8) else op.getLsbD (k - 12) := by
  refine (BitVec.getLsbD_append (x := op ++ x) (y := nn) (i := k)).trans ?_
  rw [BitVec.getLsbD_append]
  by_cases h8 : k < 8
  · simp [h8]
  · by_cases h12 : k < 12
    · simp [h8, h12, show k - 8 < 4 by omega]
    · simp [h8, h12, show ¬ k - 8 < 4 by omega, show k - 8 - 4 = k - 12 by omega]

theorem getLsbD_formXyn (op : Nibble) (x y : RegIdx) (n : Nibble) (k : Nat) :
    (formXyn op x y n).getLsbD k =
      if k < 4 then n.getLsbD k else if k < 8 then y.getLsbD (k - 4)
      else if k < 12 then x.getLsbD (k - 8) else op.getLsbD (k - 12) := by
  refine (BitVec.getLsbD_append (x := op ++ x ++ y) (y := n) (i := k)).trans ?_
  rw [BitVec.getLsbD_append, BitVec.getLsbD_append]
  by_cases h4 : k < 4
  · simp [h4]
  · by_cases h8 : k < 8
    · simp [h4, h8, show k - 4 < 4 by omega]
    · by_cases h12 : k < 12
      · simp [h4, h8, h12, show ¬ k - 4 < 4 by omega, show k - 4 - 4 = k - 8 by omega, show k - 8 < 4 by omega]
      · simp [h4, h8, h12, show ¬ k - 4 < 4 by omega, show k - 4 - 4 = k - 8 by omega, show ¬ k - 8 < 4 by omega,
          show k - 8 - 4 = k - 12 by omega]

/-! ### Reading a field back -/

@[simp] theorem fieldOp_formNnn (op : Nibble) (nnn : Addr12) : fieldOp (formNnn op nnn) = op := by
  apply BitVec.eq_of_getLsbD_eq
  intro k hk
  rw [fieldOp, BitVec.getLsbD_extractLsb', getLsbD_formNnn]
  simp [hk]

@[simp] theorem fieldNnn_formNnn (op : Nibble) (nnn : Addr12) : fieldNnn (formNnn op nnn) = nnn := by
  apply BitVec.eq_of_getLsbD_eq
  intro k hk
  rw [fieldNnn, BitVec.getLsbD_extractLsb', getLsbD_formNnn]
  simp [hk]

@[simp] theorem fieldOp_formXnn (op : Nibble) (x : RegIdx) (nn : Byte) : fieldOp (formXnn op x nn) = op := by
  apply BitVec.eq_of_getLsbD_eq
  intro k hk
  rw [fieldOp, BitVec.getLsbD_extractLsb', getLsbD_formXnn]
  simp [hk, show ¬ 12 + k < 8 by omega]

@[simp] theorem fieldX_formXnn (op : Nibble) (x : RegIdx) (nn : Byte) : fieldX (formXnn op x nn) = x := by
  apply BitVec.eq_of_getLsbD_eq
  intro k hk
  rw [fieldX, BitVec.getLsbD_extractLsb', getLsbD_formXnn]
  simp [hk, show 8 + k < 12 by omega]

@[simp] theorem fieldNn_formXnn (op : Nibble) (x : RegIdx) (nn : Byte) : fieldNn (formXnn op x nn) = nn := by
  apply BitVec.eq_of_getLsbD_eq
  intro k hk
  rw [fieldNn, BitVec.getLsbD_extractLsb', getLsbD_formXnn]
  simp [hk]

@[simp] theorem fieldOp_formXyn (op : Nibble) (x y : RegIdx) (n : Nibble) : fieldOp (formXyn op x y n) = op := by
  apply BitVec.eq_of_getLsbD_eq
  intro k hk
  rw [fieldOp, BitVec.getLsbD_extractLsb', getLsbD_formXyn]
  simp [hk, show ¬ 12 + k < 4 by omega, show ¬ 12 + k < 8 by omega]

@[simp] theorem fieldX_formXyn (op : Nibble) (x y : RegIdx) (n : Nibble) : fieldX (formXyn op x y n) = x := by
  apply BitVec.eq_of_getLsbD_eq
  intro k hk
  rw [fieldX, BitVec.getLsbD_extractLsb', getLsbD_formXyn]
  simp [hk, show ¬ 8 + k < 4 by omega, show 8 + k < 12 by omega]

@[simp] theorem fieldY_formXyn (op : Nibble) (x y : RegIdx) (n : Nibble) : fieldY (formXyn op x y n) = y := by
  apply BitVec.eq_of_getLsbD_eq
  intro k hk
  rw [fieldY, BitVec.getLsbD_extractLsb', getLsbD_formXyn]
  simp [hk, show 4 + k < 8 by omega]

@[simp] theorem fieldN_formXyn (op : Nibble) (x y : RegIdx) (n : Nibble) : fieldN (formXyn op x y n) = n := by
  apply BitVec.eq_of_getLsbD_eq
  intro k hk
  rw [fieldN, BitVec.getLsbD_extractLsb', getLsbD_formXyn]
  simp [hk]

/-- The two bytes of a word, put together again. -/
theorem wordOfBytes_split (w : Word) : wordOfBytes (w.extractLsb' 8 8) (w.extractLsb' 0 8) = w := by
  apply BitVec.eq_of_getLsbD_eq
  intro k hk
  refine (BitVec.getLsbD_append (x := w.extractLsb' 8 8) (y := w.extractLsb' 0 8) (i := k)).trans ?_
  by_cases h8 : k < 8
  · simp [h8]
  · simp [h8, show k - 8 < 8 by omega, show 8 + (k - 8) = k by omega]

end Sys2Proof
end

