-- ==== Sys2Proof/Laws/Memory.lean ====
section
/-!
SUPPORT. The laws of memory: a read after a write, and that every memory operation keeps the canonical form.
-/

namespace Sys2Proof.Machine

@[simp] theorem read_nil (a : Nat) : Memory.read [] a = Memory.unlisted a := rfl

theorem read_of_all_gt (m : Memory) (a : Nat) (h : m.all (fun c => decide (a < c.1)) = true) :
    Memory.read m a = Memory.unlisted a := by
  induction m with
  | nil => rfl
  | cons c rest ih =>
    obtain ⟨k, b⟩ := c
    simp only [List.all_cons, Bool.and_eq_true, decide_eq_true_eq] at h
    have hk : k ≠ a := by omega
    simp [Memory.read, hk, ih h.2]

/-- Reading any address after a put: the byte put, at its address, and what was there before elsewhere. -/
theorem read_put (m : Memory) (hm : m.wf = true) (a c : Nat) (b : Byte) :
    Memory.read (Memory.put m a b) c = if c = a then b else Memory.read m c := by
  induction m with
  | nil =>
    by_cases h : b = Memory.unlisted a <;> by_cases hc : c = a <;> simp [Memory.put, Memory.read, h, hc]
    all_goals (intro e; exact absurd e.symm hc)
  | cons e rest ih =>
    obtain ⟨k, d⟩ := e
    simp only [Memory.wf, Bool.and_eq_true] at hm
    obtain ⟨⟨-, hall⟩, hrest⟩ := hm
    have ih := ih hrest
    unfold Memory.put
    by_cases hlt : a < k
    · have hne : k ≠ a := by omega
      have hun : Memory.read rest a = Memory.unlisted a := by
        apply read_of_all_gt
        rw [List.all_eq_true] at hall ⊢
        intro x hx
        have := hall x hx
        simp only [decide_eq_true_eq] at this ⊢
        omega
      by_cases hb : b = Memory.unlisted a <;> by_cases hc : c = a <;> simp [hlt, hb, hc, Memory.read, hne, hun]
      all_goals (intro e; exact absurd e.symm hc)
    · by_cases hk : a = k
      · subst hk
        have hun : Memory.read rest a = Memory.unlisted a := read_of_all_gt rest a hall
        by_cases hb : b = Memory.unlisted a <;> by_cases hc : c = a <;> simp [hb, hc, Memory.read, hun]
        all_goals simp [Ne.symm hc]
      · simp only [hlt, hk, if_false, Memory.read]
        by_cases hc : k = c
        · have : c ≠ a := by omega
          simp [hc, this]
        · simp [hc, ih]

theorem all_gt_put (m : Memory) (j a : Nat) (b : Byte) (h : m.all (fun c => decide (j < c.1)) = true) (ha : j < a) :
    (Memory.put m a b).all (fun c => decide (j < c.1)) = true := by
  induction m with
  | nil => by_cases hb : b = Memory.unlisted a <;> simp [Memory.put, hb, ha]
  | cons e rest ih =>
    obtain ⟨k, d⟩ := e
    simp only [List.all_cons, Bool.and_eq_true] at h
    unfold Memory.put
    split
    · split
      · simp only [List.all_cons, Bool.and_eq_true]
        exact h
      · simp only [List.all_cons, Bool.and_eq_true]
        exact ⟨decide_eq_true ha, h⟩
    · split
      · split
        · exact h.2
        · simp only [List.all_cons, Bool.and_eq_true]
          exact ⟨decide_eq_true ha, h.2⟩
      · simp only [List.all_cons, Bool.and_eq_true]
        exact ⟨h.1, ih h.2⟩

/-- Putting a byte at an address that exists keeps the canonical form. -/
theorem wf_put (m : Memory) (hm : m.wf = true) (a : Nat) (b : Byte) (ha : a < Config.memBytes) :
    (Memory.put m a b).wf = true := by
  induction m with
  | nil => by_cases hb : b = Memory.unlisted a <;> simp [Memory.put, Memory.wf, hb, ha]
  | cons e rest ih =>
    obtain ⟨k, d⟩ := e
    have hm' := hm
    simp only [Memory.wf, Bool.and_eq_true] at hm
    obtain ⟨⟨⟨hk4, hd⟩, hall⟩, hrest⟩ := hm
    unfold Memory.put
    by_cases hlt : a < k
    · by_cases hb : b = Memory.unlisted a
      · simp [hlt, hb, hm']
      · have hrest_gt : rest.all (fun c => decide (a < c.1)) = true := by
          rw [List.all_eq_true] at hall ⊢
          intro x hx
          have := hall x hx
          simp only [decide_eq_true_eq] at this ⊢
          omega
        simp only [hlt, hb, if_true, if_false]
        unfold Memory.wf
        simp [ha, hb, hlt, hm']
        exact fun x y hx => by
          have := List.all_eq_true.mp hrest_gt (x, y) hx
          simpa using this
    · by_cases hak : a = k
      · subst hak
        by_cases hb : b = Memory.unlisted a
        · simp [hb, hrest]
        · simp only [lt_irrefl, if_false, if_true, hb]
          unfold Memory.wf
          simp only [Bool.and_eq_true]
          exact ⟨⟨⟨hk4, by simpa using hb⟩, hall⟩, hrest⟩
      · simp only [hlt, hak, if_false]
        unfold Memory.wf
        simp only [Bool.and_eq_true]
        exact ⟨⟨⟨hk4, hd⟩, all_gt_put rest k a b hall (by omega)⟩, ih hrest⟩

/-- Reading any address after a write: an address above 4095 is not written. -/
theorem read_write (m : Memory) (hm : m.wf = true) (a c : Nat) (b : Byte) :
    Memory.read (Memory.write m a b) c = if c = a ∧ a < Config.memBytes then b else Memory.read m c := by
  unfold Memory.write
  by_cases h : a < Config.memBytes
  · simp [h, read_put m hm]
  · simp [h]

/-- A write keeps the canonical form. -/
theorem wf_write (m : Memory) (hm : m.wf = true) (a : Nat) (b : Byte) : (Memory.write m a b).wf = true := by
  unfold Memory.write
  split
  · exact wf_put m hm a b ‹_›
  · exact hm

/-- Writing a list of bytes keeps the canonical form. -/
theorem wf_writeBytes (bs : List Byte) (m : Memory) (hm : m.wf = true) (a : Nat) : (Memory.writeBytes m a bs).wf = true := by
  induction bs generalizing a with
  | nil => exact hm
  | cons b bs ih => exact wf_write _ (ih (a + 1)) a b

/-- Reading any address after writing a list of bytes inside memory: the byte of the list inside the range, what was there
before outside it. -/
theorem read_writeBytes (bs : List Byte) (m : Memory) (hm : m.wf = true) (a c : Nat)
    (h : a + bs.length ≤ Config.memBytes) :
    Memory.read (Memory.writeBytes m a bs) c =
      if a ≤ c ∧ c < a + bs.length then bs.getD (c - a) 0#8 else Memory.read m c := by
  induction bs generalizing a with
  | nil => simp [Memory.writeBytes]
  | cons b bs ih =>
    simp only [List.length_cons] at h ⊢
    rw [Memory.writeBytes, read_write _ (wf_writeBytes bs m hm (a + 1)), ih (a + 1) (by omega)]
    by_cases hca : c = a
    · subst hca
      simp [show c < Config.memBytes by omega]
    · by_cases hr : a + 1 ≤ c ∧ c < a + 1 + bs.length
      · obtain ⟨k, hk⟩ : ∃ k, c = a + 1 + k := ⟨c - (a + 1), by omega⟩
        subst hk
        have e : a + 1 + k - a = k + 1 := by omega
        have h2 : a ≤ a + 1 + k ∧ a + 1 + k < a + (bs.length + 1) := by omega
        rw [if_neg (by omega), if_pos hr, if_pos h2, e]
        simp
      · have h1 : ¬ (a ≤ c ∧ c < a + (bs.length + 1)) := by omega
        rw [if_neg (by omega), if_neg hr, if_neg h1]

/-- Loading a font keeps the canonical form. -/
theorem wf_loadFont (font : Font) (m : Memory) (hm : m.wf = true) : (Memory.loadFont font m).wf = true :=
  wf_writeBytes _ m hm 0

/-- Reading any address after a font is loaded: the font's byte at 0..79, what was there before above. -/
theorem read_loadFont (font : Font) (m : Memory) (hm : m.wf = true) (a : Nat) :
    Memory.read (Memory.loadFont font m) a = if a < 80 then font.toList.getD a 0#8 else Memory.read m a := by
  rw [Memory.loadFont, read_writeBytes _ m hm 0 a (by rw [Vector.length_toList]; decide), Vector.length_toList]
  simp

/-- The font the model takes is what unlisted memory reads as, so loading it over empty memory lists nothing. -/
theorem loadFont_param : Memory.loadFont paramFont [] = [] := by decide

/-- The memory after Reset, which lists nothing, is canonical. -/
theorem wf_reset : State.reset.mem.wf = true := rfl

end Sys2Proof.Machine
end

