-- ==== Sys2Proof/Laws/State.lean ====
section
/-!
SUPPORT. One lemma per field per update of the state, each true by rfl, so that no proof unfolds a record update.
-/

namespace Sys2Proof.Machine

variable (s : State)

/-! ### setV -/

@[simp] theorem setV_mem (x : RegIdx) (b : Byte) : (setV x b s).mem = s.mem := rfl
@[simp] theorem setV_v (x : RegIdx) (b : Byte) : (setV x b s).v = s.v.set x.toNat b := rfl
@[simp] theorem setV_index (x : RegIdx) (b : Byte) : (setV x b s).index = s.index := rfl
@[simp] theorem setV_pc (x : RegIdx) (b : Byte) : (setV x b s).pc = s.pc := rfl
@[simp] theorem setV_stack (x : RegIdx) (b : Byte) : (setV x b s).stack = s.stack := rfl
@[simp] theorem setV_sp (x : RegIdx) (b : Byte) : (setV x b s).sp = s.sp := rfl
@[simp] theorem setV_dt (x : RegIdx) (b : Byte) : (setV x b s).dt = s.dt := rfl
@[simp] theorem setV_st (x : RegIdx) (b : Byte) : (setV x b s).st = s.st := rfl
@[simp] theorem setV_keys (x : RegIdx) (b : Byte) : (setV x b s).keys = s.keys := rfl
@[simp] theorem setV_fb (x : RegIdx) (b : Byte) : (setV x b s).fb = s.fb := rfl
@[simp] theorem setV_redraw (x : RegIdx) (b : Byte) : (setV x b s).redraw = s.redraw := rfl
@[simp] theorem setV_ctrl (x : RegIdx) (b : Byte) : (setV x b s).ctrl = s.ctrl := rfl
@[simp] theorem setV_kx (x : RegIdx) (b : Byte) : (setV x b s).kx = s.kx := rfl
@[simp] theorem setV_fault (x : RegIdx) (b : Byte) : (setV x b s).fault = s.fault := rfl
@[simp] theorem setV_pending (x : RegIdx) (b : Byte) : (setV x b s).pending = s.pending := rfl
@[simp] theorem setV_romOpen (x : RegIdx) (b : Byte) : (setV x b s).romOpen = s.romOpen := rfl
@[simp] theorem setV_draws (x : RegIdx) (b : Byte) : (setV x b s).draws = s.draws := rfl

/-! ### setIndex -/

@[simp] theorem setIndex_mem (w : Word) : (setIndex w s).mem = s.mem := rfl
@[simp] theorem setIndex_v (w : Word) : (setIndex w s).v = s.v := rfl
@[simp] theorem setIndex_index (w : Word) : (setIndex w s).index = w := rfl
@[simp] theorem setIndex_pc (w : Word) : (setIndex w s).pc = s.pc := rfl
@[simp] theorem setIndex_stack (w : Word) : (setIndex w s).stack = s.stack := rfl
@[simp] theorem setIndex_sp (w : Word) : (setIndex w s).sp = s.sp := rfl
@[simp] theorem setIndex_dt (w : Word) : (setIndex w s).dt = s.dt := rfl
@[simp] theorem setIndex_st (w : Word) : (setIndex w s).st = s.st := rfl
@[simp] theorem setIndex_keys (w : Word) : (setIndex w s).keys = s.keys := rfl
@[simp] theorem setIndex_fb (w : Word) : (setIndex w s).fb = s.fb := rfl
@[simp] theorem setIndex_redraw (w : Word) : (setIndex w s).redraw = s.redraw := rfl
@[simp] theorem setIndex_ctrl (w : Word) : (setIndex w s).ctrl = s.ctrl := rfl
@[simp] theorem setIndex_kx (w : Word) : (setIndex w s).kx = s.kx := rfl
@[simp] theorem setIndex_fault (w : Word) : (setIndex w s).fault = s.fault := rfl
@[simp] theorem setIndex_pending (w : Word) : (setIndex w s).pending = s.pending := rfl
@[simp] theorem setIndex_romOpen (w : Word) : (setIndex w s).romOpen = s.romOpen := rfl
@[simp] theorem setIndex_draws (w : Word) : (setIndex w s).draws = s.draws := rfl

/-! ### setDt -/

@[simp] theorem setDt_mem (b : Byte) : (setDt b s).mem = s.mem := rfl
@[simp] theorem setDt_v (b : Byte) : (setDt b s).v = s.v := rfl
@[simp] theorem setDt_index (b : Byte) : (setDt b s).index = s.index := rfl
@[simp] theorem setDt_pc (b : Byte) : (setDt b s).pc = s.pc := rfl
@[simp] theorem setDt_stack (b : Byte) : (setDt b s).stack = s.stack := rfl
@[simp] theorem setDt_sp (b : Byte) : (setDt b s).sp = s.sp := rfl
@[simp] theorem setDt_dt (b : Byte) : (setDt b s).dt = b := rfl
@[simp] theorem setDt_st (b : Byte) : (setDt b s).st = s.st := rfl
@[simp] theorem setDt_keys (b : Byte) : (setDt b s).keys = s.keys := rfl
@[simp] theorem setDt_fb (b : Byte) : (setDt b s).fb = s.fb := rfl
@[simp] theorem setDt_redraw (b : Byte) : (setDt b s).redraw = s.redraw := rfl
@[simp] theorem setDt_ctrl (b : Byte) : (setDt b s).ctrl = s.ctrl := rfl
@[simp] theorem setDt_kx (b : Byte) : (setDt b s).kx = s.kx := rfl
@[simp] theorem setDt_fault (b : Byte) : (setDt b s).fault = s.fault := rfl
@[simp] theorem setDt_pending (b : Byte) : (setDt b s).pending = s.pending := rfl
@[simp] theorem setDt_romOpen (b : Byte) : (setDt b s).romOpen = s.romOpen := rfl
@[simp] theorem setDt_draws (b : Byte) : (setDt b s).draws = s.draws := rfl

/-! ### setSt -/

@[simp] theorem setSt_mem (b : Byte) : (setSt b s).mem = s.mem := rfl
@[simp] theorem setSt_v (b : Byte) : (setSt b s).v = s.v := rfl
@[simp] theorem setSt_index (b : Byte) : (setSt b s).index = s.index := rfl
@[simp] theorem setSt_pc (b : Byte) : (setSt b s).pc = s.pc := rfl
@[simp] theorem setSt_stack (b : Byte) : (setSt b s).stack = s.stack := rfl
@[simp] theorem setSt_sp (b : Byte) : (setSt b s).sp = s.sp := rfl
@[simp] theorem setSt_dt (b : Byte) : (setSt b s).dt = s.dt := rfl
@[simp] theorem setSt_st (b : Byte) : (setSt b s).st = b := rfl
@[simp] theorem setSt_keys (b : Byte) : (setSt b s).keys = s.keys := rfl
@[simp] theorem setSt_fb (b : Byte) : (setSt b s).fb = s.fb := rfl
@[simp] theorem setSt_redraw (b : Byte) : (setSt b s).redraw = s.redraw := rfl
@[simp] theorem setSt_ctrl (b : Byte) : (setSt b s).ctrl = s.ctrl := rfl
@[simp] theorem setSt_kx (b : Byte) : (setSt b s).kx = s.kx := rfl
@[simp] theorem setSt_fault (b : Byte) : (setSt b s).fault = s.fault := rfl
@[simp] theorem setSt_pending (b : Byte) : (setSt b s).pending = s.pending := rfl
@[simp] theorem setSt_romOpen (b : Byte) : (setSt b s).romOpen = s.romOpen := rfl
@[simp] theorem setSt_draws (b : Byte) : (setSt b s).draws = s.draws := rfl

/-! ### setMem -/

@[simp] theorem setMem_mem (m : Memory) : (setMem m s).mem = m := rfl
@[simp] theorem setMem_v (m : Memory) : (setMem m s).v = s.v := rfl
@[simp] theorem setMem_index (m : Memory) : (setMem m s).index = s.index := rfl
@[simp] theorem setMem_pc (m : Memory) : (setMem m s).pc = s.pc := rfl
@[simp] theorem setMem_stack (m : Memory) : (setMem m s).stack = s.stack := rfl
@[simp] theorem setMem_sp (m : Memory) : (setMem m s).sp = s.sp := rfl
@[simp] theorem setMem_dt (m : Memory) : (setMem m s).dt = s.dt := rfl
@[simp] theorem setMem_st (m : Memory) : (setMem m s).st = s.st := rfl
@[simp] theorem setMem_keys (m : Memory) : (setMem m s).keys = s.keys := rfl
@[simp] theorem setMem_fb (m : Memory) : (setMem m s).fb = s.fb := rfl
@[simp] theorem setMem_redraw (m : Memory) : (setMem m s).redraw = s.redraw := rfl
@[simp] theorem setMem_ctrl (m : Memory) : (setMem m s).ctrl = s.ctrl := rfl
@[simp] theorem setMem_kx (m : Memory) : (setMem m s).kx = s.kx := rfl
@[simp] theorem setMem_fault (m : Memory) : (setMem m s).fault = s.fault := rfl
@[simp] theorem setMem_pending (m : Memory) : (setMem m s).pending = s.pending := rfl
@[simp] theorem setMem_romOpen (m : Memory) : (setMem m s).romOpen = s.romOpen := rfl
@[simp] theorem setMem_draws (m : Memory) : (setMem m s).draws = s.draws := rfl

/-! ### showFrame -/

@[simp] theorem showFrame_mem (f : FrameBuffer) : (showFrame f s).mem = s.mem := rfl
@[simp] theorem showFrame_v (f : FrameBuffer) : (showFrame f s).v = s.v := rfl
@[simp] theorem showFrame_index (f : FrameBuffer) : (showFrame f s).index = s.index := rfl
@[simp] theorem showFrame_pc (f : FrameBuffer) : (showFrame f s).pc = s.pc := rfl
@[simp] theorem showFrame_stack (f : FrameBuffer) : (showFrame f s).stack = s.stack := rfl
@[simp] theorem showFrame_sp (f : FrameBuffer) : (showFrame f s).sp = s.sp := rfl
@[simp] theorem showFrame_dt (f : FrameBuffer) : (showFrame f s).dt = s.dt := rfl
@[simp] theorem showFrame_st (f : FrameBuffer) : (showFrame f s).st = s.st := rfl
@[simp] theorem showFrame_keys (f : FrameBuffer) : (showFrame f s).keys = s.keys := rfl
@[simp] theorem showFrame_fb (f : FrameBuffer) : (showFrame f s).fb = f := rfl
@[simp] theorem showFrame_redraw (f : FrameBuffer) : (showFrame f s).redraw = true := rfl
@[simp] theorem showFrame_ctrl (f : FrameBuffer) : (showFrame f s).ctrl = s.ctrl := rfl
@[simp] theorem showFrame_kx (f : FrameBuffer) : (showFrame f s).kx = s.kx := rfl
@[simp] theorem showFrame_fault (f : FrameBuffer) : (showFrame f s).fault = s.fault := rfl
@[simp] theorem showFrame_pending (f : FrameBuffer) : (showFrame f s).pending = s.pending := rfl
@[simp] theorem showFrame_romOpen (f : FrameBuffer) : (showFrame f s).romOpen = s.romOpen := rfl
@[simp] theorem showFrame_draws (f : FrameBuffer) : (showFrame f s).draws = s.draws := rfl

/-! ### awaitKey -/

@[simp] theorem awaitKey_mem (x : RegIdx) : (awaitKey x s).mem = s.mem := rfl
@[simp] theorem awaitKey_v (x : RegIdx) : (awaitKey x s).v = s.v := rfl
@[simp] theorem awaitKey_index (x : RegIdx) : (awaitKey x s).index = s.index := rfl
@[simp] theorem awaitKey_pc (x : RegIdx) : (awaitKey x s).pc = s.pc := rfl
@[simp] theorem awaitKey_stack (x : RegIdx) : (awaitKey x s).stack = s.stack := rfl
@[simp] theorem awaitKey_sp (x : RegIdx) : (awaitKey x s).sp = s.sp := rfl
@[simp] theorem awaitKey_dt (x : RegIdx) : (awaitKey x s).dt = s.dt := rfl
@[simp] theorem awaitKey_st (x : RegIdx) : (awaitKey x s).st = s.st := rfl
@[simp] theorem awaitKey_keys (x : RegIdx) : (awaitKey x s).keys = s.keys := rfl
@[simp] theorem awaitKey_fb (x : RegIdx) : (awaitKey x s).fb = s.fb := rfl
@[simp] theorem awaitKey_redraw (x : RegIdx) : (awaitKey x s).redraw = s.redraw := rfl
@[simp] theorem awaitKey_ctrl (x : RegIdx) : (awaitKey x s).ctrl = .awaitingKey := rfl
@[simp] theorem awaitKey_kx (x : RegIdx) : (awaitKey x s).kx = x := rfl
@[simp] theorem awaitKey_fault (x : RegIdx) : (awaitKey x s).fault = s.fault := rfl
@[simp] theorem awaitKey_pending (x : RegIdx) : (awaitKey x s).pending = s.pending := rfl
@[simp] theorem awaitKey_romOpen (x : RegIdx) : (awaitKey x s).romOpen = s.romOpen := rfl
@[simp] theorem awaitKey_draws (x : RegIdx) : (awaitKey x s).draws = s.draws := rfl

/-! ### countDraw -/

@[simp] theorem countDraw_mem : (countDraw s).mem = s.mem := rfl
@[simp] theorem countDraw_v : (countDraw s).v = s.v := rfl
@[simp] theorem countDraw_index : (countDraw s).index = s.index := rfl
@[simp] theorem countDraw_pc : (countDraw s).pc = s.pc := rfl
@[simp] theorem countDraw_stack : (countDraw s).stack = s.stack := rfl
@[simp] theorem countDraw_sp : (countDraw s).sp = s.sp := rfl
@[simp] theorem countDraw_dt : (countDraw s).dt = s.dt := rfl
@[simp] theorem countDraw_st : (countDraw s).st = s.st := rfl
@[simp] theorem countDraw_keys : (countDraw s).keys = s.keys := rfl
@[simp] theorem countDraw_fb : (countDraw s).fb = s.fb := rfl
@[simp] theorem countDraw_redraw : (countDraw s).redraw = s.redraw := rfl
@[simp] theorem countDraw_ctrl : (countDraw s).ctrl = s.ctrl := rfl
@[simp] theorem countDraw_kx : (countDraw s).kx = s.kx := rfl
@[simp] theorem countDraw_fault : (countDraw s).fault = s.fault := rfl
@[simp] theorem countDraw_pending : (countDraw s).pending = s.pending := rfl
@[simp] theorem countDraw_romOpen : (countDraw s).romOpen = s.romOpen := rfl
@[simp] theorem countDraw_draws : (countDraw s).draws = s.draws + 1 := rfl

/-! ### setPc -/

@[simp] theorem setPc_mem (w : Word) : (setPc w s).mem = s.mem := rfl
@[simp] theorem setPc_v (w : Word) : (setPc w s).v = s.v := rfl
@[simp] theorem setPc_index (w : Word) : (setPc w s).index = s.index := rfl
@[simp] theorem setPc_pc (w : Word) : (setPc w s).pc = w := rfl
@[simp] theorem setPc_stack (w : Word) : (setPc w s).stack = s.stack := rfl
@[simp] theorem setPc_sp (w : Word) : (setPc w s).sp = s.sp := rfl
@[simp] theorem setPc_dt (w : Word) : (setPc w s).dt = s.dt := rfl
@[simp] theorem setPc_st (w : Word) : (setPc w s).st = s.st := rfl
@[simp] theorem setPc_keys (w : Word) : (setPc w s).keys = s.keys := rfl
@[simp] theorem setPc_fb (w : Word) : (setPc w s).fb = s.fb := rfl
@[simp] theorem setPc_redraw (w : Word) : (setPc w s).redraw = s.redraw := rfl
@[simp] theorem setPc_ctrl (w : Word) : (setPc w s).ctrl = s.ctrl := rfl
@[simp] theorem setPc_kx (w : Word) : (setPc w s).kx = s.kx := rfl
@[simp] theorem setPc_fault (w : Word) : (setPc w s).fault = s.fault := rfl
@[simp] theorem setPc_pending (w : Word) : (setPc w s).pending = s.pending := rfl
@[simp] theorem setPc_romOpen (w : Word) : (setPc w s).romOpen = s.romOpen := rfl
@[simp] theorem setPc_draws (w : Word) : (setPc w s).draws = s.draws := rfl

/-! ### advance -/

@[simp] theorem advance_mem : (advance s).mem = s.mem := rfl
@[simp] theorem advance_v : (advance s).v = s.v := rfl
@[simp] theorem advance_index : (advance s).index = s.index := rfl
@[simp] theorem advance_pc : (advance s).pc = s.pc + 2#16 := rfl
@[simp] theorem advance_stack : (advance s).stack = s.stack := rfl
@[simp] theorem advance_sp : (advance s).sp = s.sp := rfl
@[simp] theorem advance_dt : (advance s).dt = s.dt := rfl
@[simp] theorem advance_st : (advance s).st = s.st := rfl
@[simp] theorem advance_keys : (advance s).keys = s.keys := rfl
@[simp] theorem advance_fb : (advance s).fb = s.fb := rfl
@[simp] theorem advance_redraw : (advance s).redraw = s.redraw := rfl
@[simp] theorem advance_ctrl : (advance s).ctrl = s.ctrl := rfl
@[simp] theorem advance_kx : (advance s).kx = s.kx := rfl
@[simp] theorem advance_fault : (advance s).fault = s.fault := rfl
@[simp] theorem advance_pending : (advance s).pending = s.pending := rfl
@[simp] theorem advance_romOpen : (advance s).romOpen = s.romOpen := rfl
@[simp] theorem advance_draws : (advance s).draws = s.draws := rfl

/-! ### latchFault -/

@[simp] theorem latchFault_mem (r : FaultRecord) : (latchFault r s).mem = s.mem := rfl
@[simp] theorem latchFault_v (r : FaultRecord) : (latchFault r s).v = s.v := rfl
@[simp] theorem latchFault_index (r : FaultRecord) : (latchFault r s).index = s.index := rfl
@[simp] theorem latchFault_pc (r : FaultRecord) : (latchFault r s).pc = s.pc := rfl
@[simp] theorem latchFault_stack (r : FaultRecord) : (latchFault r s).stack = s.stack := rfl
@[simp] theorem latchFault_sp (r : FaultRecord) : (latchFault r s).sp = s.sp := rfl
@[simp] theorem latchFault_dt (r : FaultRecord) : (latchFault r s).dt = s.dt := rfl
@[simp] theorem latchFault_st (r : FaultRecord) : (latchFault r s).st = s.st := rfl
@[simp] theorem latchFault_keys (r : FaultRecord) : (latchFault r s).keys = s.keys := rfl
@[simp] theorem latchFault_fb (r : FaultRecord) : (latchFault r s).fb = s.fb := rfl
@[simp] theorem latchFault_redraw (r : FaultRecord) : (latchFault r s).redraw = s.redraw := rfl
@[simp] theorem latchFault_ctrl (r : FaultRecord) : (latchFault r s).ctrl = s.ctrl := rfl
@[simp] theorem latchFault_kx (r : FaultRecord) : (latchFault r s).kx = s.kx := rfl
@[simp] theorem latchFault_fault (r : FaultRecord) : (latchFault r s).fault = some r := rfl
@[simp] theorem latchFault_pending (r : FaultRecord) : (latchFault r s).pending = s.pending := rfl
@[simp] theorem latchFault_romOpen (r : FaultRecord) : (latchFault r s).romOpen = s.romOpen := rfl
@[simp] theorem latchFault_draws (r : FaultRecord) : (latchFault r s).draws = s.draws := rfl

/-! ### raise -/

@[simp] theorem raise_mem (k : FaultKind) (i a : Word) : (raise k i a s).mem = s.mem := rfl
@[simp] theorem raise_v (k : FaultKind) (i a : Word) : (raise k i a s).v = s.v := rfl
@[simp] theorem raise_index (k : FaultKind) (i a : Word) : (raise k i a s).index = s.index := rfl
@[simp] theorem raise_pc (k : FaultKind) (i a : Word) : (raise k i a s).pc = s.pc := rfl
@[simp] theorem raise_stack (k : FaultKind) (i a : Word) : (raise k i a s).stack = s.stack := rfl
@[simp] theorem raise_sp (k : FaultKind) (i a : Word) : (raise k i a s).sp = s.sp := rfl
@[simp] theorem raise_dt (k : FaultKind) (i a : Word) : (raise k i a s).dt = s.dt := rfl
@[simp] theorem raise_st (k : FaultKind) (i a : Word) : (raise k i a s).st = s.st := rfl
@[simp] theorem raise_keys (k : FaultKind) (i a : Word) : (raise k i a s).keys = s.keys := rfl
@[simp] theorem raise_fb (k : FaultKind) (i a : Word) : (raise k i a s).fb = s.fb := rfl
@[simp] theorem raise_redraw (k : FaultKind) (i a : Word) : (raise k i a s).redraw = s.redraw := rfl
@[simp] theorem raise_ctrl (k : FaultKind) (i a : Word) : (raise k i a s).ctrl = s.ctrl := rfl
@[simp] theorem raise_kx (k : FaultKind) (i a : Word) : (raise k i a s).kx = s.kx := rfl
@[simp] theorem raise_fault (k : FaultKind) (i a : Word) : (raise k i a s).fault = some ⟨k, s.pc, i, a⟩ := rfl
@[simp] theorem raise_pending (k : FaultKind) (i a : Word) : (raise k i a s).pending = s.pending := rfl
@[simp] theorem raise_romOpen (k : FaultKind) (i a : Word) : (raise k i a s).romOpen = s.romOpen := rfl
@[simp] theorem raise_draws (k : FaultKind) (i a : Word) : (raise k i a s).draws = s.draws := rfl

/-! ### Reading a register after an update -/

@[simp] theorem getV_setV (x r : RegIdx) (b : Byte) : getV (setV x b s) r = if r = x then b else getV s r := by
  unfold getV
  rw [show (setV x b s).v = s.v.set x.toNat b from rfl, Vector.getElem_set]
  by_cases h : r = x
  · simp [h]
  · have : x.toNat ≠ r.toNat := fun e => h (BitVec.eq_of_toNat_eq e.symm)
    simp [h, this]

@[simp] theorem getV_setIndex (q : RegIdx) (w : Word) : getV (setIndex w s) q = getV s q := rfl
@[simp] theorem getV_setDt (q : RegIdx) (b : Byte) : getV (setDt b s) q = getV s q := rfl
@[simp] theorem getV_setSt (q : RegIdx) (b : Byte) : getV (setSt b s) q = getV s q := rfl
@[simp] theorem getV_setMem (q : RegIdx) (m : Memory) : getV (setMem m s) q = getV s q := rfl
@[simp] theorem getV_showFrame (q : RegIdx) (f : FrameBuffer) : getV (showFrame f s) q = getV s q := rfl
@[simp] theorem getV_awaitKey (q : RegIdx) (x : RegIdx) : getV (awaitKey x s) q = getV s q := rfl
@[simp] theorem getV_countDraw (q : RegIdx) : getV (countDraw s) q = getV s q := rfl
@[simp] theorem getV_setPc (q : RegIdx) (w : Word) : getV (setPc w s) q = getV s q := rfl
@[simp] theorem getV_advance (q : RegIdx) : getV (advance s) q = getV s q := rfl
@[simp] theorem getV_latchFault (q : RegIdx) (r : FaultRecord) : getV (latchFault r s) q = getV s q := rfl
@[simp] theorem getV_raise (q : RegIdx) (k : FaultKind) (i a : Word) : getV (raise k i a s) q = getV s q := rfl

/-! ### Skips -/

theorem skipIf_eq (c : Bool) : skipIf c s = { s with pc := s.pc + (if c then 4#16 else 2#16) } := by
  cases c <;> rfl

@[simp] theorem skipIf_pc (c : Bool) : (skipIf c s).pc = s.pc + (if c then 4#16 else 2#16) := by
  rw [skipIf_eq]

/-- Two states with the same registers by number have the same register file. -/
theorem v_ext (t : State) (h : ∀ r, getV t r = getV s r) : t.v = s.v := by
  apply Vector.ext
  intro k hk
  have := h (BitVec.ofNat 4 k)
  simpa [getV, Nat.mod_eq_of_lt hk] using this

end Sys2Proof.Machine
end

