-- ==== Sys2Proof/Laws/Ops.lean ====
section
/-!
SUPPORT. One lemma per shared operation that says once everything it can do; later proofs cite it instead of unfolding the
operation.
-/

namespace Sys2Proof.Machine

/-! ### Range check and fault entry -/

theorem lowestOutOfRange_eq (base : Word) : lowestOutOfRange base = firstMissingAddress base := by
  unfold lowestOutOfRange firstMissingAddress Config.memBytes
  split
  · rw [Nat.max_eq_right (by omega)]
  · rw [Nat.max_eq_left (by omega)]
    exact (BitVec.ofNat_toNat 16 base).symm ▸ by simp

theorem le_lowestOutOfRange (base : Word) : 4096 ≤ (lowestOutOfRange base).toNat := by
  unfold lowestOutOfRange Config.memBytes
  split
  · decide
  · omega

theorem withinMemory_of_le (e : Nat) (instr : Word) (s done : State) (h : s.index.toNat + e ≤ 4095) :
    withinMemory e instr s done = done := by
  rw [withinMemory, if_pos (by unfold Config.memBytes; omega)]

theorem withinMemory_of_gt (e : Nat) (instr : Word) (s done : State) (h : 4095 < s.index.toNat + e) :
    withinMemory e instr s done =
      { s with fault := some ⟨.memoryFault, s.pc, instr, lowestOutOfRange s.index⟩ } := by
  rw [withinMemory, if_neg (by unfold Config.memBytes; omega)]
  rfl

/-! ### Stack -/

/-- A push: the entry at `SP`, and `SP` one up. -/
theorem pushStack_of_lt (w : Word) (s : State) (h : s.sp.val < 16) :
    pushStack w s = some { s with stack := s.stack.set s.sp.val w h, sp := ⟨s.sp.val + 1, Nat.succ_lt_succ h⟩ } := by
  rw [pushStack, dif_pos h]

theorem pushStack_of_full (w : Word) (s : State) (h : s.sp.val = 16) : pushStack w s = none := by
  rw [pushStack, dif_neg (by omega)]

/-- A pop: the entry below `SP`, `SP` one down, and the entry keeps its bits. -/
theorem popStack_of_pos (s : State) (h : 0 < s.sp.val) :
    popStack s = some (s.stack[s.sp.val - 1]'(by omega), { s with sp := ⟨s.sp.val - 1, by omega⟩ }) := by
  rw [popStack, dif_pos h]

theorem popStack_of_empty (s : State) (h : s.sp.val = 0) : popStack s = none := by
  rw [popStack, dif_neg (by omega)]

/-! ### Register lists -/

@[simp] theorem length_regList (s : State) (n : Nat) : (regList s n).length = n := by simp [regList]

theorem getD_regList (s : State) (n k : Nat) (h : k < n) : (regList s n).getD k 0#8 = getV s (BitVec.ofNat 4 k) := by
  simp [regList, List.getD_eq_getElem?_getD, h]

/-- Loading registers writes the register file alone. -/
theorem loadRegs_eq (m : Memory) (base n : Nat) (s : State) :
    loadRegs m base n s = { s with v := (loadRegs m base n s).v } := by
  induction n with
  | zero => rfl
  | succ n ih => rw [loadRegs, setV, ih]

/-- Loading `n` registers: the first `n` hold the bytes from `base` upward, the others are as before. -/
theorem getV_loadRegs (m : Memory) (base n : Nat) (s : State) (r : RegIdx) (h : n ≤ 16) :
    getV (loadRegs m base n s) r = if r.toNat < n then Memory.read m (base + r.toNat) else getV s r := by
  induction n with
  | zero => simp [loadRegs]
  | succ n ih =>
    have ih := ih (by omega)
    rw [loadRegs, getV_setV, ih]
    by_cases hr : r = BitVec.ofNat 4 n
    · subst hr
      have : (BitVec.ofNat 4 n).toNat = n := by simp; omega
      simp [this]
    · have hne : r.toNat ≠ n := fun e => hr (by rw [← e]; simp)
      by_cases hlt : r.toNat < n
      · simp [hr, hlt, show r.toNat < n + 1 by omega]
      · simp [hr, hlt, show ¬ r.toNat < n + 1 by omega]

/-! ### Flags and arithmetic -/

theorem toNat_sumByte (a b : Byte) : (sumByte a b).toNat = (a.toNat + b.toNat) % 256 := by simp [sumByte]

theorem toNat_diffByte (a b : Byte) : (diffByte a b).toNat = (a.toNat + 256 - b.toNat) % 256 := by simp [diffByte]

theorem toNat_halfByte (a : Byte) : (halfByte a).toNat = a.toNat / 2 := by
  have := a.isLt
  simp only [halfByte, BitVec.toNat_ofNat]
  omega

theorem toNat_doubleByte (a : Byte) : (doubleByte a).toNat = a.toNat * 2 % 256 := by simp [doubleByte]

/-- The end of a flag-writing instruction under `flag_last`: one next state. -/
theorem finishFlagged_flagLast (x : RegIdx) (r : Byte) (f : Bool) (s : State) :
    finishFlagged .flagLast x r f s = .next (advance (setV vfIdx (flagByte f) (setV x r s))) := by
  rw [finishFlagged, if_neg (by simp)]

/-! ### Keys -/

/-- A key number up to 15 selects its key whatever the parameter. -/
theorem keyOperand_of_lt (p : KeyIndexPolicy) (s : State) (k : Byte) (h : k.toNat < 16) :
    keyOperand p s k = some (s.keys[k.toNat]) := by
  have e : (k.setWidth 4).toNat = k.toNat := by simp; omega
  rw [keyOperand.eq_def, if_pos h, keyLevel]
  simp [e]

theorem keyOperand_of_ge (p : KeyIndexPolicy) (s : State) (k : Byte) (h : 15 < k.toNat) :
    keyOperand p s k =
      match p with
      | .fault => none
      | .mask => some (keyLevel s (k.setWidth 4))
      | .notPressed => some false := by
  have hk : ¬ k.toNat < 16 := by omega
  cases p <;> simp only [keyOperand, if_neg hk]

/-! ### Reset -/

/-- Reset at the parameters the model takes. -/
theorem resetEvent_eq (s : State) : resetEvent s = { State.reset with pending := s.pending, draws := s.draws } :=
  congrArg (fun m => { State.reset with mem := m, pending := s.pending, draws := s.draws }) loadFont_param

/-- Memory after Reset for any font, the other elements zero: the font's bytes below 80, 0 above. -/
theorem read_resetWith_zero (font : Font) (draw s : State) (a : Nat) :
    Memory.read (resetWith font .zero draw s).mem a = Memory.resetByte font a := by
  have h := read_loadFont font State.reset.mem wf_reset a
  have hl := font.length_toList
  rw [show (resetWith font .zero draw s).mem = Memory.loadFont font State.reset.mem from rfl, h, Memory.resetByte]
  split
  · rfl
  · have hc : customaryFont.length = 80 := rfl
    rw [List.getD_eq_default _ _ (by omega), show Memory.read State.reset.mem a = customaryFont.getD a 0#8 from rfl,
      List.getD_eq_default _ _ (by omega)]

/-! ### Timers -/

theorem toNat_countDown (b : Byte) : (countDown b).toNat = b.toNat - 1 := by
  unfold countDown
  by_cases h : b = 0#8
  · simp [h]
  · have hb : b.toNat ≠ 0 := fun e => h (BitVec.eq_of_toNat_eq (by simpa using e))
    have hlt := b.isLt
    simp only [h, if_false, BitVec.toNat_sub, BitVec.toNat_ofNat]
    omega

/-! ### Pixels -/

/-- Flipping pixel `j` inverts it and leaves every other pixel alone. -/
theorem getLsbD_flipPixel (j k : Nat) (acc : FrameBuffer × Bool) (hk : k < 2048) :
    (flipPixel j acc).1.getLsbD k = (acc.1.getLsbD k ^^ decide (j = k)) := by
  simp [flipPixel, BitVec.getLsbD_xor, BitVec.getLsbD_twoPow]
  intro h
  omega

/-- The collision bit is sticky, and is raised when the pixel was set. -/
theorem snd_flipPixel (j : Nat) (acc : FrameBuffer × Bool) : (flipPixel j acc).2 = (acc.2 || acc.1.getLsbD j) := rfl

/-! ### The Step event -/

/-- The fetch checks pass exactly for an even `PC` up to 4094 under `ODD_PC = fault`. -/
theorem fetchFault_of_ok (pc : Word) (h : pc.toNat ≤ 4094) (he : pc.getLsbD 0 = false) : fetchFault .fault pc = none := by
  rw [fetchFault, if_neg (by omega), if_neg (by rw [he]; decide)]

/-- An enabled Step whose fetch and decode succeed is the instruction. -/
theorem stepEvent_of_decoded (s : State) (i : Instr) (hc : s.ctrl = .running) (hf : s.fault = none)
    (hp : s.pc.toNat ≤ 4094) (he : s.pc.getLsbD 0 = false)
    (hd : decodeWord (Memory.readWord s.mem s.pc.toNat) = .ok i) :
    stepEvent s = exec i { s with romOpen := false } := by
  have hen : stepEnabled s = true := by simp [stepEnabled, halted, hc, hf]
  have hff : fetchFault paramOddPc s.pc = none := fetchFault_of_ok s.pc hp he
  rw [stepEvent, if_pos hen, engineStepWith]
  simp only [hff]
  unfold decodeWord at hd
  rw [hd]

/-- A Step that is not enabled changes nothing. -/
theorem stepEvent_of_disabled (s : State) (h : stepEnabled s = false) : stepEvent s = .next s := by
  rw [stepEvent, if_neg (by simp [h])]

end Sys2Proof.Machine
end

