-- ==== Sys2Proof/Laws/PerInstr.lean ====
section
/-!
SUPPORT. Statements about every instruction as syntax, one lemma per constructor. Family EncodeFamily: the top nibble of an
instruction's word, the opcode family that selects its decode branch (spec/30_encoding.md R62, R65), is that of its row's
match in R66.
-/

namespace Sys2Proof.Laws

/-- The opcode family of the row named by an instruction's mnemonic (R66). -/
def familyOf (i : Instr) : Option Nibble :=
  (opcodeRows.find? fun row => row.1 == mnemonicOf i).map fun row => fieldOp row.2.1

/-- The encoder puts the row's family into bits 15..12. -/
def EncodeFamily.Statement (i : Instr) : Prop := familyOf i = some (fieldOp (encodeWord i))

theorem EncodeFamily.nop : EncodeFamily.Statement .nop := rfl

theorem EncodeFamily.clearDisplay : EncodeFamily.Statement .clearDisplay := rfl

theorem EncodeFamily.subroutineReturn : EncodeFamily.Statement .subroutineReturn := rfl

theorem EncodeFamily.jump (nnn : Addr12) : EncodeFamily.Statement (.jump nnn) := by
  rw [EncodeFamily.Statement, encodeWord, fieldOp_formNnn]
  rfl

theorem EncodeFamily.subroutineCall (nnn : Addr12) : EncodeFamily.Statement (.subroutineCall nnn) := by
  rw [EncodeFamily.Statement, encodeWord, fieldOp_formNnn]
  rfl

theorem EncodeFamily.skipIfEqualImm (x : RegIdx) (nn : Byte) : EncodeFamily.Statement (.skipIfEqualImm x nn) := by
  rw [EncodeFamily.Statement, encodeWord, fieldOp_formXnn]
  rfl

theorem EncodeFamily.skipIfNotEqualImm (x : RegIdx) (nn : Byte) : EncodeFamily.Statement (.skipIfNotEqualImm x nn) := by
  rw [EncodeFamily.Statement, encodeWord, fieldOp_formXnn]
  rfl

theorem EncodeFamily.skipIfEqualReg (x : RegIdx) (y : RegIdx) : EncodeFamily.Statement (.skipIfEqualReg x y) := by
  rw [EncodeFamily.Statement, encodeWord, fieldOp_formXyn]
  rfl

theorem EncodeFamily.setRegister (x : RegIdx) (nn : Byte) : EncodeFamily.Statement (.setRegister x nn) := by
  rw [EncodeFamily.Statement, encodeWord, fieldOp_formXnn]
  rfl

theorem EncodeFamily.addImmediate (x : RegIdx) (nn : Byte) : EncodeFamily.Statement (.addImmediate x nn) := by
  rw [EncodeFamily.Statement, encodeWord, fieldOp_formXnn]
  rfl

theorem EncodeFamily.copyRegister (x : RegIdx) (y : RegIdx) : EncodeFamily.Statement (.copyRegister x y) := by
  rw [EncodeFamily.Statement, encodeWord, fieldOp_formXyn]
  rfl

theorem EncodeFamily.or (x : RegIdx) (y : RegIdx) : EncodeFamily.Statement (.or x y) := by
  rw [EncodeFamily.Statement, encodeWord, fieldOp_formXyn]
  rfl

theorem EncodeFamily.and (x : RegIdx) (y : RegIdx) : EncodeFamily.Statement (.and x y) := by
  rw [EncodeFamily.Statement, encodeWord, fieldOp_formXyn]
  rfl

theorem EncodeFamily.xor (x : RegIdx) (y : RegIdx) : EncodeFamily.Statement (.xor x y) := by
  rw [EncodeFamily.Statement, encodeWord, fieldOp_formXyn]
  rfl

theorem EncodeFamily.addRegisters (x : RegIdx) (y : RegIdx) : EncodeFamily.Statement (.addRegisters x y) := by
  rw [EncodeFamily.Statement, encodeWord, fieldOp_formXyn]
  rfl

theorem EncodeFamily.subtract (x : RegIdx) (y : RegIdx) : EncodeFamily.Statement (.subtract x y) := by
  rw [EncodeFamily.Statement, encodeWord, fieldOp_formXyn]
  rfl

theorem EncodeFamily.shiftRight (x : RegIdx) (y : RegIdx) : EncodeFamily.Statement (.shiftRight x y) := by
  rw [EncodeFamily.Statement, encodeWord, fieldOp_formXyn]
  rfl

theorem EncodeFamily.reverseSubtract (x : RegIdx) (y : RegIdx) : EncodeFamily.Statement (.reverseSubtract x y) := by
  rw [EncodeFamily.Statement, encodeWord, fieldOp_formXyn]
  rfl

theorem EncodeFamily.shiftLeft (x : RegIdx) (y : RegIdx) : EncodeFamily.Statement (.shiftLeft x y) := by
  rw [EncodeFamily.Statement, encodeWord, fieldOp_formXyn]
  rfl

theorem EncodeFamily.skipIfNotEqualReg (x : RegIdx) (y : RegIdx) : EncodeFamily.Statement (.skipIfNotEqualReg x y) := by
  rw [EncodeFamily.Statement, encodeWord, fieldOp_formXyn]
  rfl

theorem EncodeFamily.setIndex (nnn : Addr12) : EncodeFamily.Statement (.setIndex nnn) := by
  rw [EncodeFamily.Statement, encodeWord, fieldOp_formNnn]
  rfl

theorem EncodeFamily.jumpWithOffset (nnn : Addr12) : EncodeFamily.Statement (.jumpWithOffset nnn) := by
  rw [EncodeFamily.Statement, encodeWord, fieldOp_formNnn]
  rfl

theorem EncodeFamily.random (x : RegIdx) (nn : Byte) : EncodeFamily.Statement (.random x nn) := by
  rw [EncodeFamily.Statement, encodeWord, fieldOp_formXnn]
  rfl

theorem EncodeFamily.drawSprite (x : RegIdx) (y : RegIdx) (n : Nibble) : EncodeFamily.Statement (.drawSprite x y n) := by
  rw [EncodeFamily.Statement, encodeWord, fieldOp_formXyn]
  rfl

theorem EncodeFamily.skipIfKeyPressed (x : RegIdx) : EncodeFamily.Statement (.skipIfKeyPressed x) := by
  rw [EncodeFamily.Statement, encodeWord, fieldOp_formXnn]
  rfl

theorem EncodeFamily.skipIfKeyNotPressed (x : RegIdx) : EncodeFamily.Statement (.skipIfKeyNotPressed x) := by
  rw [EncodeFamily.Statement, encodeWord, fieldOp_formXnn]
  rfl

theorem EncodeFamily.getDelayTimer (x : RegIdx) : EncodeFamily.Statement (.getDelayTimer x) := by
  rw [EncodeFamily.Statement, encodeWord, fieldOp_formXnn]
  rfl

theorem EncodeFamily.storeNextKeypress (x : RegIdx) : EncodeFamily.Statement (.storeNextKeypress x) := by
  rw [EncodeFamily.Statement, encodeWord, fieldOp_formXnn]
  rfl

theorem EncodeFamily.setDelayTimer (x : RegIdx) : EncodeFamily.Statement (.setDelayTimer x) := by
  rw [EncodeFamily.Statement, encodeWord, fieldOp_formXnn]
  rfl

theorem EncodeFamily.setSoundTimer (x : RegIdx) : EncodeFamily.Statement (.setSoundTimer x) := by
  rw [EncodeFamily.Statement, encodeWord, fieldOp_formXnn]
  rfl

theorem EncodeFamily.addToIndex (x : RegIdx) : EncodeFamily.Statement (.addToIndex x) := by
  rw [EncodeFamily.Statement, encodeWord, fieldOp_formXnn]
  rfl

theorem EncodeFamily.setIndexToSprite (x : RegIdx) : EncodeFamily.Statement (.setIndexToSprite x) := by
  rw [EncodeFamily.Statement, encodeWord, fieldOp_formXnn]
  rfl

theorem EncodeFamily.storeBcd (x : RegIdx) : EncodeFamily.Statement (.storeBcd x) := by
  rw [EncodeFamily.Statement, encodeWord, fieldOp_formXnn]
  rfl

theorem EncodeFamily.storeRegistersInMemory (x : RegIdx) : EncodeFamily.Statement (.storeRegistersInMemory x) := by
  rw [EncodeFamily.Statement, encodeWord, fieldOp_formXnn]
  rfl

theorem EncodeFamily.setRegistersFromMemory (x : RegIdx) : EncodeFamily.Statement (.setRegistersFromMemory x) := by
  rw [EncodeFamily.Statement, encodeWord, fieldOp_formXnn]
  rfl

end Sys2Proof.Laws
end

