-- ==== Sys2Proof/Tests/Slice0.lean ====
section
/-!
SUPPORT. Small tests of the model's own: every expected result is from spec/95_test_vectors.md (the paragraph or the vector is
named) or from the rule named. Then, for every statement with hypotheses, a concrete state and operands that meet them.
-/

namespace Sys2Proof.Tests

open Sys2Proof.Machine

/-! ### Helpers -/

/-- The reset state with the registers given. -/
def withRegs (rs : List (RegIdx × Byte)) : State := rs.foldl (fun s p => setV p.1 p.2 s) State.reset

/-- The framebuffer whose set pixels are exactly those given. -/
def lit (js : List Nat) : FrameBuffer := js.foldl (fun f j => f ||| BitVec.twoPow 2048 j) 0#2048

/-- The reset state with the bytes given from an address upward. -/
def withMem (a : Nat) (bs : List Byte) (s : State) : State := { s with mem := Memory.writeBytes s.mem a bs }

/-- The state of a next outcome. -/
def nextOf (o : Host.Outcome State Fault Refusal) : Option State :=
  match o with
  | .next t => some t
  | .fault _ => none
  | .refused _ => none

/-- One step with the word given placed at `PC`. -/
def ran (w : Nat) (s : State) : Option State := nextOf (step (s.withFetchWord 16 w))

/-- One step with the event given scheduled. -/
def event (e : Event) (s : State) : Option State := nextOf (step { s with pending := [e] })

/-- One step of the state as it is. -/
def stepped (s : State) : Option State := nextOf (step s)

/-- The fault a run latched. -/
def faultOf (o : Option State) : Option FaultRecord := o.bind fun t => t.fault

/-- The reset state waiting for a key for register `x`. -/
def waiting (x : RegIdx) : State := { State.reset with ctrl := .awaitingKey, kx := x }

/-- A halted state. -/
def haltedState : State := { State.reset with fault := some ⟨.decodeError, 0x200#16, 0x00FF#16, 0#16⟩ }

/-! ### What is ill-formed is refused -/

/-- Key code 16 names no key (R173); 15 does. -/
theorem test_keyCode_refused : keyCodeWellFormed 16 = false ∧ keyCodeWellFormed 15 = true := by decide

/-- A ROM of 3585 bytes is refused, one of 3584 is not (R193, S16). -/
theorem test_rom_refused :
    romWellFormed (List.replicate 3585 0#8) = false ∧ romWellFormed (List.replicate 3584 0#8) = true := by
  unfold romWellFormed
  rw [List.length_replicate, List.length_replicate]
  decide

/-- Memories that are not in the canonical form are refused: not rising, repeated, past the end, an entry that says what is
said unlisted (a zero at 0x300, the font's F0 at 0). -/
theorem test_memory_refused :
    Memory.wf [(5, 1), (4, 1)] = false ∧ Memory.wf [(5, 1), (5, 2)] = false ∧ Memory.wf [(4096, 1)] = false ∧
    Memory.wf [(0x300, 0)] = false ∧ Memory.wf [(0, 0xF0)] = false ∧ Memory.wf [(0, 0), (4095, 1)] = true := by decide

/-- Every instruction the types admit is well-formed (R64, R72: no register number and no row count is rejected), so there is no
ill-formed instruction to refuse; an ill-formed WORD is refused by the decoder (test_decode_unknown). -/
theorem test_every_instruction_wellFormed (i : Instr) : i.wellFormed = true := by cases i <;> rfl

/-! ### Decoding (95_test_vectors.md 2.1), and the encoder gives the words back -/

theorem test_decode_nop :
    decodeWord 0b0000000000000000#16 = .ok .nop ∧
    encodeWord .nop = 0x0000#16 := by decide

theorem test_decode_clearDisplay :
    decodeWord 0b0000000011100000#16 = .ok .clearDisplay ∧
    encodeWord .clearDisplay = 0x00E0#16 := by decide

theorem test_decode_subroutineReturn :
    decodeWord 0b0000000011101110#16 = .ok .subroutineReturn ∧
    encodeWord .subroutineReturn = 0x00EE#16 := by decide

theorem test_decode_jump :
    decodeWord 0b0001111111111111#16 = .ok (.jump 0xFFF) ∧
    encodeWord (.jump 0xFFF) = 0x1FFF#16 := by decide

theorem test_decode_subroutineCall :
    decodeWord 0b0010101010111100#16 = .ok (.subroutineCall 0xABC) ∧
    encodeWord (.subroutineCall 0xABC) = 0x2ABC#16 := by decide

theorem test_decode_skipIfEqualImm :
    decodeWord 0b0011111100000000#16 = .ok (.skipIfEqualImm 0xF 0x00) ∧
    encodeWord (.skipIfEqualImm 0xF 0x00) = 0x3F00#16 := by decide

theorem test_decode_skipIfNotEqualImm :
    decodeWord 0b0100000000010010#16 = .ok (.skipIfNotEqualImm 0x0 0x12) ∧
    encodeWord (.skipIfNotEqualImm 0x0 0x12) = 0x4012#16 := by decide

theorem test_decode_skipIfEqualReg :
    decodeWord 0b0101101010110000#16 = .ok (.skipIfEqualReg 0xA 0xB) ∧
    encodeWord (.skipIfEqualReg 0xA 0xB) = 0x5AB0#16 := by decide

theorem test_decode_setRegister :
    decodeWord 0b0110101000101011#16 = .ok (.setRegister 0xA 0x2B) ∧
    encodeWord (.setRegister 0xA 0x2B) = 0x6A2B#16 := by decide

theorem test_decode_addImmediate :
    decodeWord 0b0111101000000101#16 = .ok (.addImmediate 0xA 0x05) ∧
    encodeWord (.addImmediate 0xA 0x05) = 0x7A05#16 := by decide

theorem test_decode_copyRegister :
    decodeWord 0b1000101010110000#16 = .ok (.copyRegister 0xA 0xB) ∧
    encodeWord (.copyRegister 0xA 0xB) = 0x8AB0#16 := by decide

theorem test_decode_or :
    decodeWord 0b1000101010110001#16 = .ok (.or 0xA 0xB) ∧
    encodeWord (.or 0xA 0xB) = 0x8AB1#16 := by decide

theorem test_decode_and :
    decodeWord 0b1000101010110010#16 = .ok (.and 0xA 0xB) ∧
    encodeWord (.and 0xA 0xB) = 0x8AB2#16 := by decide

theorem test_decode_xor :
    decodeWord 0b1000101010110011#16 = .ok (.xor 0xA 0xB) ∧
    encodeWord (.xor 0xA 0xB) = 0x8AB3#16 := by decide

theorem test_decode_addRegisters :
    decodeWord 0b1000101010110100#16 = .ok (.addRegisters 0xA 0xB) ∧
    encodeWord (.addRegisters 0xA 0xB) = 0x8AB4#16 := by decide

theorem test_decode_subtract :
    decodeWord 0b1000101010110101#16 = .ok (.subtract 0xA 0xB) ∧
    encodeWord (.subtract 0xA 0xB) = 0x8AB5#16 := by decide

theorem test_decode_shiftRight :
    decodeWord 0b1000101010110110#16 = .ok (.shiftRight 0xA 0xB) ∧
    encodeWord (.shiftRight 0xA 0xB) = 0x8AB6#16 := by decide

theorem test_decode_reverseSubtract :
    decodeWord 0b1000101010110111#16 = .ok (.reverseSubtract 0xA 0xB) ∧
    encodeWord (.reverseSubtract 0xA 0xB) = 0x8AB7#16 := by decide

theorem test_decode_shiftLeft :
    decodeWord 0b1000101010111110#16 = .ok (.shiftLeft 0xA 0xB) ∧
    encodeWord (.shiftLeft 0xA 0xB) = 0x8ABE#16 := by decide

theorem test_decode_skipIfNotEqualReg :
    decodeWord 0b1001101010110000#16 = .ok (.skipIfNotEqualReg 0xA 0xB) ∧
    encodeWord (.skipIfNotEqualReg 0xA 0xB) = 0x9AB0#16 := by decide

theorem test_decode_setIndex :
    decodeWord 0b1010001011110000#16 = .ok (.setIndex 0x2F0) ∧
    encodeWord (.setIndex 0x2F0) = 0xA2F0#16 := by decide

theorem test_decode_jumpWithOffset :
    decodeWord 0b1011111111111111#16 = .ok (.jumpWithOffset 0xFFF) ∧
    encodeWord (.jumpWithOffset 0xFFF) = 0xBFFF#16 := by decide

theorem test_decode_random :
    decodeWord 0b1100000011111111#16 = .ok (.random 0x0 0xFF) ∧
    encodeWord (.random 0x0 0xFF) = 0xC0FF#16 := by decide

theorem test_decode_drawSprite :
    decodeWord 0b1101000000010101#16 = .ok (.drawSprite 0x0 0x1 0x5) ∧
    encodeWord (.drawSprite 0x0 0x1 0x5) = 0xD015#16 := by decide

theorem test_decode_skipIfKeyPressed :
    decodeWord 0b1110111110011110#16 = .ok (.skipIfKeyPressed 0xF) ∧
    encodeWord (.skipIfKeyPressed 0xF) = 0xEF9E#16 := by decide

theorem test_decode_skipIfKeyNotPressed :
    decodeWord 0b1110111110100001#16 = .ok (.skipIfKeyNotPressed 0xF) ∧
    encodeWord (.skipIfKeyNotPressed 0xF) = 0xEFA1#16 := by decide

theorem test_decode_getDelayTimer :
    decodeWord 0b1111010100000111#16 = .ok (.getDelayTimer 0x5) ∧
    encodeWord (.getDelayTimer 0x5) = 0xF507#16 := by decide

theorem test_decode_storeNextKeypress :
    decodeWord 0b1111001100001010#16 = .ok (.storeNextKeypress 0x3) ∧
    encodeWord (.storeNextKeypress 0x3) = 0xF30A#16 := by decide

theorem test_decode_setDelayTimer :
    decodeWord 0b1111010100010101#16 = .ok (.setDelayTimer 0x5) ∧
    encodeWord (.setDelayTimer 0x5) = 0xF515#16 := by decide

theorem test_decode_setSoundTimer :
    decodeWord 0b1111010100011000#16 = .ok (.setSoundTimer 0x5) ∧
    encodeWord (.setSoundTimer 0x5) = 0xF518#16 := by decide

theorem test_decode_addToIndex :
    decodeWord 0b1111001100011110#16 = .ok (.addToIndex 0x3) ∧
    encodeWord (.addToIndex 0x3) = 0xF31E#16 := by decide

theorem test_decode_setIndexToSprite :
    decodeWord 0b1111111100101001#16 = .ok (.setIndexToSprite 0xF) ∧
    encodeWord (.setIndexToSprite 0xF) = 0xFF29#16 := by decide

theorem test_decode_storeBcd :
    decodeWord 0b1111010100110011#16 = .ok (.storeBcd 0x5) ∧
    encodeWord (.storeBcd 0x5) = 0xF533#16 := by decide

theorem test_decode_storeRegistersInMemory :
    decodeWord 0b1111111101010101#16 = .ok (.storeRegistersInMemory 0xF) ∧
    encodeWord (.storeRegistersInMemory 0xF) = 0xFF55#16 := by decide

theorem test_decode_setRegistersFromMemory :
    decodeWord 0b1111001101100101#16 = .ok (.setRegistersFromMemory 0x3) ∧
    encodeWord (.setRegistersFromMemory 0x3) = 0xF365#16 := by decide

/-- The Unknown words of 2.1. -/
theorem test_decode_unknown :
    ([0x00FF, 0x8008, 0xE000, 0xF0FF, 0x00E1, 0x0001, 0x0100, 0x01E0, 0x01EE, 0x0FFF, 0x5AB1, 0x5ABF,
      0x8AB8, 0x8AB9, 0x8ABD, 0x8ABF, 0x9AB1, 0xE09F, 0xE0A0, 0xF000, 0xF030, 0xF066, 0xF075, 0xF085, 0xFFFF] : List Word).all
      (fun w => decide (decodeWord w = .error (.unknown w))) = true := by decide

/-- Fewer than two bytes are no instruction (R61). -/
theorem test_decode_truncated : decodeBytes [] = .error .truncated ∧ decodeBytes [0x12] = .error .truncated := by decide

/-- The other values of the two decoding parameters (2.1, last sentences). -/
theorem test_decode_otherParameters :
    decodeWordWith .word .ignored 0x5AB1 = .ok (.skipIfEqualReg 0xA 0xB) ∧
    decodeWordWith .word .ignored 0x9AB1 = .ok (.skipIfNotEqualReg 0xA 0xB) ∧
    decodeWordWith .lowByte .strict 0x0100 = .ok .nop ∧ decodeWordWith .lowByte .strict 0x01E0 = .ok .clearDisplay ∧
    decodeWordWith .lowByte .strict 0x01EE = .ok .subroutineReturn ∧
    decodeWordWith .lowByte .strict 0x0FFF = .error (.unknown 0x0FFF) := by decide

/-! ### The fetch (2.2) -/

theorem test_fetch_last : (stepped { State.reset with pc := 0xFFE }).map (fun t => (t.pc, t.fault)) = some (0x1000, none) := by
  decide

theorem test_fetch_range :
    faultOf (stepped { State.reset with pc := 0x1000 }) = some ⟨.memoryFault, 0x1000, 0, 4096⟩ ∧
    faultOf (stepped { State.reset with pc := 0xFFF }) = some ⟨.memoryFault, 0x0FFF, 0, 4096⟩ ∧
    faultOf (stepped { State.reset with pc := 0x10FE }) = some ⟨.memoryFault, 0x10FE, 0, 4350⟩ := by decide

theorem test_fetch_odd : faultOf (stepped { State.reset with pc := 0x201 }) = some ⟨.pcMisaligned, 0x201, 0, 0⟩ := by decide

/-- The same, the Step scheduled: the event is taken off the schedule. -/
theorem test_fetch_scheduled :
    (stepped { State.reset with pc := 0x201, pending := [.step, .tick] }).map (fun t => (t.fault, t.pending)) =
      some (some ⟨.pcMisaligned, 0x201, 0, 0⟩, [.tick]) := by decide

theorem test_fetch_font : faultOf (stepped { State.reset with pc := 0 }) = some ⟨.decodeError, 0, 0xF090, 0⟩ := by decide

theorem test_fetch_overFont :
    (ran 0x6A2B { State.reset with pc := 0x050 }).map (fun t => (getV t 0xA, t.pc)) = some (0x2B, 0x052) := by decide

/-- `ODD_PC = allow`, fault program Fe. -/
theorem test_fetch_oddAllowed :
    faultOf (nextOf (engineStepWith .allow .word .strict (withMem 0x200 [0x12, 0x01] { State.reset with pc := 0x201 }))) =
      some ⟨.decodeError, 0x201, 0x0100, 0⟩ := by decide

/-! ### Control (2.3) -/

theorem test_nop :
    (ran 0x0000 State.reset).map (fun t => (t.pc)) =
      some (0x202) := by decide

theorem test_clearDisplay :
    (ran 0x00E0 { State.reset with fb := lit [0, 2047] }).map (fun t => (t.fb, t.redraw, t.pc)) =
      some (0, true, 0x202) := by decide +kernel

theorem test_return_top :
    (ran 0x00EE { State.reset with sp := 16, stack := State.reset.stack.set 15 0x0ABC }).map (fun t => (t.sp, t.pc)) =
      some (15, 0xABC) := by decide

theorem test_return_empty :
    faultOf (ran 0x00EE State.reset) = some ⟨.stackUnderflow, 0x200, 0x00EE, 0⟩ := by decide

theorem test_jump :
    (ran 0x1ABC State.reset).map (fun t => (t.pc)) =
      some (0xABC) := by decide

theorem test_jump_odd :
    faultOf ((ran 0x1201 State.reset).bind stepped) = some ⟨.pcMisaligned, 0x201, 0, 0⟩ := by decide

theorem test_call_last :
    (ran 0x2300 { State.reset with sp := 15 }).map (fun t => (t.stack[15], t.sp, t.pc)) =
      some (0x202, 16, 0x300) := by decide

theorem test_call_full :
    faultOf (ran 0x2300 { State.reset with sp := 16 }) = some ⟨.stackOverflow, 0x200, 0x2300, 0⟩ := by decide

theorem test_call_return_S9 :
    ((ran 0x2300 (withMem 0x300 [0x00, 0xEE] State.reset)).bind stepped).map (fun t => (t.sp, t.pc)) =
      some (0, 0x202) := by decide

theorem test_jumpWithOffset_V0 :
    (ran 0xB2FF (withRegs [(0x0, 0x01), (0x2, 0x55)])).map (fun t => (t.pc)) =
      some (0x300) := by decide

theorem test_jumpWithOffset_past :
    ((ran 0xBFFF (withRegs [(0x0, 0xFF)])).map (fun t => t.pc), faultOf ((ran 0xBFFF (withRegs [(0x0, 0xFF)])).bind stepped)) =
      (some 0x10FE, some ⟨.memoryFault, 0x10FE, 0, 4350⟩) := by decide

/-! ### Skips (2.4) -/

theorem test_skipIfEqualImm :
    (ran 0x3A05 (withRegs [(0xA, 0x05)])).map (fun t => t.pc) = some 0x204 ∧
    (ran 0x3A05 (withRegs [(0xA, 0x06)])).map (fun t => t.pc) = some 0x202 := by decide

theorem test_skipIfNotEqualImm :
    (ran 0x4A05 (withRegs [(0xA, 0x05)])).map (fun t => t.pc) = some 0x202 ∧
    (ran 0x4A05 (withRegs [(0xA, 0x06)])).map (fun t => t.pc) = some 0x204 := by decide

theorem test_skipIfEqualReg :
    (ran 0x5120 (withRegs [(0x1, 0x07), (0x2, 0x07)])).map (fun t => t.pc) = some 0x204 ∧
    (ran 0x5120 (withRegs [(0x1, 0x07), (0x2, 0x08)])).map (fun t => t.pc) = some 0x202 := by decide

theorem test_skipIfNotEqualReg :
    (ran 0x9120 (withRegs [(0x1, 0x07), (0x2, 0x08)])).map (fun t => t.pc) = some 0x204 ∧
    (ran 0x9120 (withRegs [(0x1, 0x07), (0x2, 0x07)])).map (fun t => t.pc) = some 0x202 := by decide

theorem test_skip_past_end :
    (ran 0x3000 { State.reset with pc := 0xFFE }).map (fun t => t.pc) = some 0x1002 := by decide

theorem test_skipIfKeyPressed :
    (ran 0xE39E { withRegs [(0x3, 0x0A)] with keys := State.reset.keys.set 10 true }).map (fun t => t.pc) = some 0x204 ∧
    (ran 0xE39E (withRegs [(0x3, 0x0A)])).map (fun t => t.pc) = some 0x202 := by decide

theorem test_skipIfKeyPressed_above :
    faultOf (ran 0xE39E (withRegs [(0x3, 0x1A)])) = some ⟨.keyIndexFault, 0x200, 0xE39E, 0⟩ := by decide

theorem test_skipIfKeyNotPressed :
    (ran 0xE3A1 (withRegs [(0x3, 0x0A)])).map (fun t => t.pc) = some 0x204 ∧
    (ran 0xE3A1 { withRegs [(0x3, 0x0A)] with keys := State.reset.keys.set 10 true }).map (fun t => t.pc) = some 0x202 := by decide

theorem test_skipIfKeyNotPressed_above :
    faultOf (ran 0xE3A1 (withRegs [(0x3, 0xFF)])) = some ⟨.keyIndexFault, 0x200, 0xE3A1, 0⟩ := by decide

/-- The other values of `KEY_INDEX`. -/
theorem test_keyIndex_others :
    (keySkip .mask true 3 0xE39E { withRegs [(0x3, 0x1A)] with keys := State.reset.keys.set 10 true }).pc = 0x204 ∧
    (keySkip .notPressed true 3 0xE39E { withRegs [(0x3, 0x1A)] with keys := State.reset.keys.set 10 true }).pc = 0x202 ∧
    (keySkip .mask false 3 0xE3A1 (withRegs [(0x3, 0xFF)])).pc = 0x204 ∧
    (keySkip .notPressed false 3 0xE3A1 (withRegs [(0x3, 0xFF)])).pc = 0x204 := by decide

/-! ### Transfer and bitwise (2.5) -/

theorem test_setRegister :
    (ran 0x6FFF State.reset).map (fun t => (getV t 15, t.pc)) =
      some (0xFF, 0x202) := by decide

theorem test_addImmediate :
    (ran 0x7A05 (withRegs [(0xA, 0xFE)])).map (fun t => (getV t 0xA, getV t 15, t.pc)) =
      some (0x03, 0, 0x202) := by decide

theorem test_addImmediate_vf :
    (ran 0x7F01 (withRegs [(0xF, 0xFF)])).map (fun t => (getV t 15, t.pc)) =
      some (0, 0x202) := by decide

theorem test_copyRegister :
    (ran 0x8120 (withRegs [(0x2, 0x7F)])).map (fun t => (getV t 1, getV t 2, t.pc)) =
      some (0x7F, 0x7F, 0x202) := by decide

theorem test_or :
    (ran 0x8121 (withRegs [(0x1, 0xCC), (0x2, 0xAA), (0xF, 0x55)])).map (fun t => (getV t 1, getV t 15, t.pc)) =
      some (0xEE, 0x55, 0x202) := by decide

theorem test_and :
    (ran 0x8122 (withRegs [(0x1, 0xCC), (0x2, 0xAA), (0xF, 0x55)])).map (fun t => (getV t 1, getV t 15, t.pc)) =
      some (0x88, 0x55, 0x202) := by decide

theorem test_xor :
    (ran 0x8123 (withRegs [(0x1, 0xCC), (0x2, 0xAA), (0xF, 0x55)])).map (fun t => (getV t 1, getV t 15, t.pc)) =
      some (0x66, 0x55, 0x202) := by decide

/-! ### Arithmetic and shifts (2.6, S2 to S7) -/

theorem test_add_S2 :
    (ran 0x8124 (withRegs [(0x1, 0xFA), (0x2, 0x0A)])).map (fun t => (getV t 1, getV t 15, t.pc)) =
      some (0x04, 1, 0x202) := by decide

theorem test_add_vf :
    (ran 0x8F14 (withRegs [(0xF, 0xC8), (0x1, 0x64)])).map (fun t => getV t 15) = some 1 ∧
    (ran 0x81F4 (withRegs [(0x1, 0x05), (0xF, 0x01)])).map (fun t => getV t 15) = some 0 := by decide

theorem test_subtract_S5 :
    (ran 0x8125 (withRegs [(0x1, 0x05), (0x2, 0x0A)])).map (fun t => (getV t 1, getV t 15, t.pc)) =
      some (0xFB, 0, 0x202) := by decide

theorem test_subtract_vf :
    (ran 0x8F15 (withRegs [(0xF, 0x09), (0x1, 0x04)])).map (fun t => getV t 15) = some 1 ∧
    (ran 0x8125 (withRegs [(0x1, 0x07), (0x2, 0x07)])).map (fun t => getV t 15) = some 1 := by decide

theorem test_shiftRight_S6 :
    (ran 0x8126 (withRegs [(0x1, 0x03), (0x2, 0xFF)])).map (fun t => (getV t 1, getV t 15, t.pc)) =
      some (0x01, 1, 0x202) := by decide

/-- R113: 10 - 5, no borrow. -/
theorem test_reverseSubtract :
    (ran 0x8127 (withRegs [(0x1, 0x05), (0x2, 0x0A)])).map (fun t => (getV t 1, getV t 15, t.pc)) =
      some (0x05, 1, 0x202) := by decide

/-- R113: 5 - 10 is 251, a borrow. -/
theorem test_reverseSubtract_borrow :
    (ran 0x8127 (withRegs [(0x1, 0x0A), (0x2, 0x05)])).map (fun t => (getV t 1, getV t 15, t.pc)) =
      some (0xFB, 0, 0x202) := by decide

theorem test_shiftLeft_S7 :
    (ran 0x812E (withRegs [(0x1, 0x81), (0x2, 0xFF)])).map (fun t => (getV t 1, getV t 15, t.pc)) =
      some (0x02, 1, 0x202) := by decide

theorem test_shiftLeft_vf :
    (ran 0x8F2E (withRegs [(0xF, 0x80)])).map (fun t => getV t 15) = some 1 ∧
    (ran 0x8F2E (withRegs [(0xF, 0x41)])).map (fun t => getV t 15) = some 0 := by decide

/-- `VF_DEST = refuse`: the last sentence of 2.6. -/
theorem test_vfDest_refuse :
    finishFlagged .refuse 15 0x2C true State.reset = .refused .vfDestination := by rfl

/-! ### Index and random (2.7) -/

theorem test_setIndex :
    (ran 0xA2F0 State.reset).map (fun t => (t.index, t.pc)) =
      some (0x02F0, 0x202) := by decide

theorem test_addToIndex :
    (ran 0xF31E { withRegs [(0x3, 0x05)] with index := 0x0FFE }).map (fun t => (t.index, getV t 15, t.pc)) =
      some (0x1003, 0, 0x202) := by decide

theorem test_addToIndex_wraps :
    (ran 0xF31E { withRegs [(0x3, 0xFF)] with index := 0xFF80 }).map (fun t => (t.index)) =
      some (0x007F) := by decide

/-- Whatever the draw is. -/
theorem test_random_mask :
    (ran 0xC30F State.reset).map (fun t => (getV t 3, t.draws, t.pc)) =
      some (Config.randomByte 0 &&& 0x0F, 1, 0x202) := by rfl

/-! ### Timers, font address, key wait (2.8) -/

theorem test_getDelayTimer :
    (ran 0xF507 { withRegs [(0x5, 0x09)] with dt := 0x2A }).map (fun t => (getV t 5, t.dt, t.pc)) =
      some (0x2A, 0x2A, 0x202) := by decide

theorem test_setDelayTimer :
    (ran 0xF515 (withRegs [(0x5, 0x3C)])).map (fun t => (t.dt, t.st, t.pc)) =
      some (0x3C, 0, 0x202) := by decide

theorem test_setSoundTimer :
    (ran 0xF518 (withRegs [(0x5, 0x03)])).map (fun t => (t.st, t.dt, soundActive t)) =
      some (0x03, 0, true) := by decide

theorem test_setSoundTimer_off :
    (ran 0xF518 { State.reset with st := 4 }).map (fun t => (t.st, soundActive t)) =
      some (0, false) := by decide

theorem test_setIndexToSprite :
    (ran 0xF029 (withRegs [(0x0, 0xFF)])).map (fun t => (t.index, t.pc)) =
      some (0x04FB, 0x202) := by decide

theorem test_setIndexToSprite_S14 :
    (ran 0xF029 (withRegs [(0x0, 0x0A)])).map (fun t => (t.index)) =
      some (0x0032) := by decide

theorem test_storeNextKeypress :
    (ran 0xFF0A { State.reset with keys := State.reset.keys.set 4 true }).map (fun t => (t.ctrl, t.kx, t.pc)) =
      some (Control.awaitingKey, 15, 0x202) := by decide

/-! ### BCD and block transfers (2.9) -/

theorem test_storeBcd :
    (ran 0xF533 { withRegs [(0x5, 0xFF)] with index := 0x0FFD }).map (fun t => (t.mem.read 0xFFD, t.mem.read 0xFFE, t.mem.read 0xFFF, t.index)) =
      some (2, 5, 5, 0x0FFD) := by decide

theorem test_storeBcd_range :
    (ran 0xF533 { withRegs [(0x5, 0xFF)] with index := 0x0FFE }).map (fun t => (t.fault, t.mem.read 0xFFE, t.pc)) =
      some (some ⟨.memoryFault, 0x200, 0xF533, 4096⟩, 0, 0x200) ∧
    faultOf (ran 0xF533 { withRegs [(0x5, 0x01)] with index := 0xFFFF }) = some ⟨.memoryFault, 0x200, 0xF533, 65535⟩ := by decide

theorem test_storeRegisters :
    (ran 0xF255 { withRegs [(0x0, 0x11), (0x1, 0x22), (0x2, 0x33), (0x3, 0x44)] with index := 0x0400 }).map (fun t => (t.mem.read 0x400, t.mem.read 0x401, t.mem.read 0x402, t.mem.read 0x403, t.index)) =
      some (0x11, 0x22, 0x33, 0, 0x0400) := by decide

theorem test_storeRegisters_range :
    (ran 0xF155 { withRegs [(0x0, 0x77)] with index := 0x0FFF }).map (fun t => (t.fault, t.mem.read 0xFFF)) =
      some (some ⟨.memoryFault, 0x200, 0xF155, 4096⟩, 0) := by decide

theorem test_setRegisters :
    (ran 0xF165 (withMem 0x400 [0xAA, 0xBB, 0xCC] { withRegs [(0x2, 0x99)] with index := 0x0400 })).map (fun t => (getV t 0, getV t 1, getV t 2, t.pc)) =
      some (0xAA, 0xBB, 0x99, 0x202) := by decide

theorem test_setRegisters_font :
    (ran 0xF365 State.reset).map (fun t => (getV t 0, getV t 1, getV t 2, getV t 3, getV t 4)) =
      some (0xF0, 0x90, 0x90, 0x90, 0) := by decide

/-! ### DrawSprite (2.10) -/

theorem test_draw_S8 :
    (ran 0xD015 State.reset).map (fun t => (t.fb, getV t 15, t.redraw, t.pc)) =
      some (lit [0, 1, 2, 3, 64, 67, 128, 131, 192, 195, 256, 257, 258, 259], 0, true, 0x202) := by decide +kernel

theorem test_draw_collision :
    (ran 0xD121 (withMem 0x300 [0xC0] { withRegs [(0x1, 0x0A), (0x2, 0x05)] with index := 0x300, fb := lit [330] })).map (fun t => (t.fb, getV t 15)) =
      some (lit [331], 1) := by decide +kernel

theorem test_draw_range :
    (ran 0xD002 { State.reset with index := 0x0FFF }).map (fun t => (t.fault, t.redraw)) =
      some (some ⟨.memoryFault, 0x200, 0xD002, 4096⟩, false) ∧
    (ran 0xD000 { State.reset with index := 0xFFFF }).map (fun t => (t.fault, t.redraw)) = some (none, true) := by decide +kernel

/-- `D013` at (62, 30), glyph 2, under both values of `DRAW_EDGE`. -/
theorem test_draw_edges :
    (drawSpriteWith .clip 0 1 3 { withRegs [(0x0, 0x3E), (0x1, 0x1E)] with index := 10 }).fb = lit [1982, 1983] ∧
    (drawSpriteWith .wrap 0 1 3 { withRegs [(0x0, 0x3E), (0x1, 0x1E)] with index := 10 }).fb =
      lit [0, 1, 62, 63, 1920, 1921, 1982, 1983, 1985] := by decide +kernel

/-! ### Events (2.11) and loading (S10, S16) -/

theorem test_tick :
    (event .tick { State.reset with dt := 2, st := 1 }).map (fun t => (t.dt, t.st)) = some (1, 0) ∧
    (event .tick State.reset).map (fun t => (t.dt, t.st)) = some (0, 0) := by decide

theorem test_tick_waiting : (event .tick { waiting 2 with dt := 5 }).map (fun t => (t.dt, t.ctrl)) = some (4, .awaitingKey) := by
  decide

theorem test_keyDown_wait :
    (event (.keyDown 3) (waiting 2)).map (fun t => (getV t 2, t.keys[3], t.ctrl)) = some (3, true, .running) := by decide

theorem test_keyUp_wait :
    (event (.keyUp 3) { waiting 2 with keys := State.reset.keys.set 3 true }).map (fun t => (t.keys[3], t.ctrl)) =
      some (false, .awaitingKey) := by decide

theorem test_keyDown_sixteen : event (.keyDown 16) (waiting 2) = some (waiting 2) := by decide +kernel

theorem test_step_waiting : event .step (waiting 2) = some (waiting 2) := by decide +kernel

theorem test_redrawAck : (event .redrawAck { State.reset with redraw := true }).map (fun t => t.redraw) = some false := by decide

theorem test_halted :
    event (.keyDown 1) haltedState = some haltedState ∧ event .tick haltedState = some haltedState ∧
    step haltedState = .fault (.halted ⟨.decodeError, 0x200#16, 0x00FF#16, 0#16⟩) :=
  ⟨by decide +kernel, by decide +kernel, rfl⟩

theorem test_reset_event : event .reset { haltedState with dt := 5, romOpen := false } = some State.reset := by decide +kernel

/-- `RESET_VALUES = unspecified` (R30): the source's values are fixed, the others are those drawn. -/
theorem test_reset_unspecified :
    ((resetWith paramFont .unspecified { waiting 2 with dt := 7, pc := 3 } haltedState).pc,
      (resetWith paramFont .unspecified { waiting 2 with dt := 7, pc := 3 } haltedState).ctrl,
      (resetWith paramFont .unspecified { waiting 2 with dt := 7, pc := 3 } haltedState).dt,
      (resetWith paramFont .unspecified { waiting 2 with dt := 7, pc := 3 } haltedState).fault) =
      (0x200, .running, 7, none) := by decide +kernel

/-- Another `FONT` (R6, R32): its bytes at 0..79 after Reset, zeros above, and nothing of the customary table. -/
theorem test_reset_otherFont :
    ((resetWith (Vector.replicate 80 0xAB) .zero State.reset haltedState).mem.read 0,
      (resetWith (Vector.replicate 80 0xAB) .zero State.reset haltedState).mem.read 79,
      (resetWith (Vector.replicate 80 0xAB) .zero State.reset haltedState).mem.read 80) = (0xAB, 0xAB, 0) := by
  simp only [read_resetWith_zero, Memory.resetByte]
  decide

theorem test_loadRom_S10 :
    (event (.loadRom [0xA2, 0xF0]) State.reset).map (fun t => (t.mem.read 0x200, t.mem.read 0x201, t.mem.read 0x202)) =
      some (0xA2, 0xF0, 0) ∧
    ((event (.loadRom [0xA2, 0xF0]) State.reset).bind stepped).map (fun t => (t.index, t.pc)) = some (0x02F0, 0x202) := by decide

/-- Fault program Fi; the ROM of 3585 bytes is ill-formed by test_rom_refused. -/
theorem test_loadRom_tooLarge (bytes : List Byte) (h : romWellFormed bytes = false) :
    (nextOf (loadRom bytes State.reset)).map (fun t => (t.fault, t.mem)) =
      some (some ⟨.romTooLarge, 0x200, 0, 0⟩, State.reset.mem) := by
  simp [loadRom, h, halted, State.reset, latchFault, nextOf]

theorem test_loadRom_late :
    step { State.reset with romOpen := false, pending := [.loadRom [0xA2]] } = .refused .loadRomOutOfOrder := rfl

/-! ### The statements' hypotheses can be met

For each statement with hypotheses, a state and operands that meet them together, and one for each clause at the edge of its
range. -/

theorem witness_DecodeInvertsEncode :
    (Instr.drawSprite 15 15 15).wellFormed = true := by
  decide

theorem witness_EncodeInvertsDecode :
    decodeWord 0xFF65#16 = .ok (.setRegistersFromMemory 15) := by
  decide

theorem witness_DecoderFollowsOpcodeMap :
    decodeWord 0x0000#16 = .ok .nop ∧ decodeWord 0xFFFF#16 = .error (.unknown 0xFFFF#16) := by
  decide

theorem witness_OpcodeRowsAreDisjoint :
    ("Jump", 0x1000#16, 0xF000#16) ∈ opcodeRows ∧ matchesRow 0x1FFF#16 ("Jump", 0x1000#16, 0xF000#16) = true := by
  decide

theorem witness_OtherParameterValues :
    fieldOp 0x5AB1#16 = 0x5#4 ∧ fieldOp 0x9AB1#16 = 0x9#4 ∧ fieldOp 0x0FEE#16 = 0x0#4 ∧ (4094#16).toNat ≤ 4094 ∧
    decodeWordWith .lowByte .strict 0x0FEE#16 = .ok .subroutineReturn := by
  decide

/-- The last legal fetch address, with a word placed there. -/
def lastFetch : State := withMem 0xFFE [0x6A, 0x2B] { State.reset with pc := 0xFFE }

theorem witness_StepRunsDecodedInstruction :
    lastFetch.ctrl = .running ∧ lastFetch.fault = none ∧ lastFetch.pc.toNat ≤ 4094 ∧ lastFetch.pc.toNat % 2 = 0 ∧
    decodeBytes [Memory.read lastFetch.mem lastFetch.pc.toNat, Memory.read lastFetch.mem (lastFetch.pc.toNat + 1)] =
      .ok (.setRegister 0xA 0x2B, []) ∧ (Instr.setRegister 0xA 0x2B).wellFormed = true ∧ lastFetch.pending = [] ∧
    ({ lastFetch with pending := [.step, .tick] } : State).pending = .step :: [.tick] := by
  decide

theorem witness_PlacedWordRunsNext :
    lastFetch.mem.wf = true ∧ lastFetch.pc.toNat ≤ 4094 ∧ lastFetch.pc.toNat % 2 = 0 ∧
    decodeTableWord 16 0xFFFFF155 = some (.storeRegistersInMemory 1) := by
  decide

/-- A scheduled Step and none scheduled, and the three clauses: `PC` at 4095, at 4093, and at the even edge 4094 over a word that does not decode. -/
theorem witness_FetchFaultsInOrder :
    (State.reset.ctrl = .running ∧ State.reset.fault = none ∧ State.reset.pending = [] ∧ ([] : List Event) = []) ∧
    ({ State.reset with pending := [.step, .tick] } : State).pending = .step :: [.tick] ∧
    4094 < (4095#16).toNat ∧ ((4093#16).toNat ≤ 4094 ∧ (4093#16).toNat % 2 = 1) ∧
    ((4094#16).toNat ≤ 4094 ∧ (4094#16).toNat % 2 = 0 ∧
      wordOfBytes (Memory.read (withMem 0xFFE [0, 1] State.reset).mem 4094)
        (Memory.read (withMem 0xFFE [0, 1] State.reset).mem 4095) = 1#16 ∧ ∀ i, decodeWord 1#16 ≠ .ok i) := by
  refine ⟨by decide, rfl, by decide, by decide, by decide, by decide, by decide, fun i h => ?_⟩
  have e : decodeWord 1#16 = .error (.unknown 1#16) := by decide
  rw [e] at h
  cases h

theorem witness_HaltedCoreIsFrozen :
    haltedState.fault = some ⟨.decodeError, 0x200#16, 0x00FF#16, 0#16⟩ ∧ haltedState.pending = [] ∧
    Event.tick ≠ .reset ∧ (∀ bytes, Event.tick ≠ .loadRom bytes) ∧
    ({ haltedState with pending := [.tick] } : State).pending = .tick :: [] ∧
    ({ haltedState with pending := [.loadRom []] } : State).pending = .loadRom [] :: [] := by
  refine ⟨rfl, rfl, ?_, ?_, rfl, rfl⟩ <;> intros <;> exact fun h => by cases h

theorem witness_WaitingCoreTakesNoStep :
    (waiting 2).ctrl = .awaitingKey ∧ (waiting 2).fault = none ∧ (waiting 2).pending = [] ∧
    ({ waiting 2 with pending := [.step] } : State).pending = .step :: [] := by
  exact ⟨rfl, rfl, rfl, rfl⟩

theorem witness_OnlyKeyDownOrResetEndsWait :
    ∃ t, ({ waiting 2 with pending := [.keyDown 15] } : State).ctrl = .awaitingKey ∧
      step { waiting 2 with pending := [.keyDown 15] } = .next t ∧ t.ctrl = .running := by
  exact ⟨_, rfl, rfl, rfl⟩

theorem witness_TickCountsTimersDown :
    ({ State.reset with dt := 255, pending := [.tick] } : State).pending = .tick :: [] ∧
    ({ State.reset with dt := 255, pending := [.tick] } : State).fault = none ∧
    ∃ r, ({ haltedState with pending := [.tick] } : State).fault = some r := by
  exact ⟨rfl, rfl, _, rfl⟩

theorem witness_KeyDownCompletesWait :
    (waiting 15).fault = none ∧ (waiting 15).ctrl = .awaitingKey ∧ 15 < 16 ∧
    ({ waiting 15 with pending := [.keyDown 15] } : State).pending = .keyDown 15 :: [] := by
  exact ⟨rfl, rfl, by decide, rfl⟩

/-- The clauses at the edge codes 15 and 16. -/
theorem witness_KeyEventsChangeOneKey :
    State.reset.fault = none ∧ State.reset.ctrl = .running ∧ 15 < 16 ∧ 15 < (16 : Nat) ∧
    ({ State.reset with pending := [.keyDown 15] } : State).pending = .keyDown 15 :: [] ∧
    ({ State.reset with pending := [.keyUp 15] } : State).pending = .keyUp 15 :: [] ∧
    (({ State.reset with pending := [.keyUp 16] } : State).pending = .keyDown 16 :: [] ∨
      ({ State.reset with pending := [.keyUp 16] } : State).pending = .keyUp 16 :: []) := by
  exact ⟨rfl, rfl, by decide, by decide, rfl, rfl, .inr rfl⟩

theorem witness_RedrawAckClearsRedraw :
    State.reset.fault = none ∧ ({ State.reset with pending := [.redrawAck] } : State).pending = .redrawAck :: [] := by
  exact ⟨rfl, rfl⟩

theorem witness_HostEventsLeaveProgramState :
    ({ State.reset with pending := [.keyDown 3] } : State).pending = .keyDown 3 :: [] ∧ Event.keyDown 3 ≠ .step ∧
    Event.keyDown 3 ≠ .reset ∧ (∀ bytes, Event.keyDown 3 ≠ .loadRom bytes) ∧ (1#4 : RegIdx) ≠ State.reset.kx ∧
    State.reset.ctrl = .running := by
  refine ⟨rfl, ?_, ?_, ?_, by decide, rfl⟩ <;> intros <;> exact fun h => by cases h

theorem witness_ResetStateValues :
    80 ≤ (80 : Nat) := by
  decide

theorem witness_ResetEventGivesFreshState :
    ({ haltedState with pending := [.reset, .tick] } : State).pending = .reset :: [.tick] := by
  rfl

theorem witness_LoadRomCopiesImage :
    State.reset.mem.wf = true ∧ State.reset.romOpen = true ∧ State.reset.fault = none ∧
    (List.replicate 3584 1#8).length ≤ 3584 ∧
    ({ State.reset with pending := [.loadRom (List.replicate 3584 1#8)] } : State).pending =
      .loadRom (List.replicate 3584 1#8) :: [] := by
  exact ⟨rfl, rfl, rfl, by rw [List.length_replicate], rfl⟩

theorem witness_LoadRomFailures :
    ({ State.reset with pending := [.loadRom (List.replicate 3585 1#8)] } : State).pending =
      .loadRom (List.replicate 3585 1#8) :: [] ∧ State.reset.romOpen = true ∧ State.reset.fault = none ∧
    3584 < (List.replicate 3585 1#8).length ∧
    ({ State.reset with romOpen := false } : State).romOpen = false := by
  exact ⟨rfl, rfl, rfl, by rw [List.length_replicate]; decide, rfl⟩

theorem witness_CallPushesReturnAddress :
    ({ State.reset with sp := 15 } : State).sp.val < 16 ∧ ({ State.reset with sp := 16 } : State).sp.val = 16 := by
  decide

theorem witness_ReturnPopsAddress :
    0 < ({ State.reset with sp := 1 } : State).sp.val ∧ ({ State.reset with sp := 16 } : State).sp.val = (15 : Fin 16).val + 1 ∧
    ({ State.reset with sp := 1 } : State).sp.val = (0 : Fin 16).val + 1 ∧ State.reset.sp.val = 0 := by
  decide

theorem witness_CallThenReturnComesBack :
    ({ State.reset with sp := 15 } : State).sp.val < 16 := by
  decide

theorem witness_KeySkipsFollowKeyLevel :
    (getV (withRegs [(0xF, 15)]) 15).toNat = (15 : Fin 16).val ∧ (getV State.reset 0).toNat = (0 : Fin 16).val := by
  decide

theorem witness_KeySkipsAboveFifteen :
    15 < (getV (withRegs [(0xF, 16)]) 15).toNat ∧ (getV (withRegs [(0xF, 255)]) 15).toNat % 16 = (15 : Fin 16).val ∧
    15 < (getV (withRegs [(0xF, 255)]) 15).toNat := by
  decide

/-- The value clauses hold for `x` other than 15, and the flag clauses for `x = 15` too. -/
theorem witness_AddSetsCarry :
    (14#4 : RegIdx) ≠ 15#4 ∧ (0#4 : RegIdx) ≠ 14#4 ∧ (0#4 : RegIdx) ≠ 15#4 := by
  decide

theorem witness_SubtractionsSetNoBorrow :
    (14#4 : RegIdx) ≠ 15#4 ∧ (0#4 : RegIdx) ≠ 14#4 ∧ (0#4 : RegIdx) ≠ 15#4 := by
  decide

theorem witness_ShiftsCaptureBitOut :
    (14#4 : RegIdx) ≠ 15#4 ∧ (0#4 : RegIdx) ≠ 14#4 ∧ (0#4 : RegIdx) ≠ 15#4 := by
  decide

theorem witness_TransfersWriteOneRegister :
    (1#4 : RegIdx) ≠ 15#4 := by
  decide

theorem witness_BitwiseWriteOneRegister :
    (1#4 : RegIdx) ≠ 15#4 := by
  decide

theorem witness_RandomMasksFreeByte :
    (0x0F#8).getLsbD 4 = false ∧ (1#4 : RegIdx) ≠ 15#4 := by
  decide

/-- In range at the edge `I + 14 = 4095`, and with no rows at any `I`. -/
theorem witness_DrawSpriteClipsAndCollides :
    (({ State.reset with index := 0x0FF1 } : State).index.toNat + (15#4 : Nibble).toNat - 1 ≤ 4095) ∧ (0#4 : Nibble).toNat = 0 ∧
    2047 < 2048 ∧ (0#4 : RegIdx) ≠ 15#4 := by
  decide

theorem witness_DrawSpriteUnderWrap :
    ∃ (s : State) (n : Nibble) (covers : Nat → Bool) (t : State), (n.toNat = 0 ∨ s.index.toNat + n.toNat - 1 ≤ 4095) ∧
      covers = wrapCovers s.mem s.index.toNat ((getV s 0).toNat % 64) ((getV s 1).toNat % 32) n.toNat ∧
      t = drawSpriteWith .wrap 0 1 n s := by
  exact ⟨{ State.reset with index := 0x0FF1 }, 15, _, _, .inr (by decide), rfl, rfl⟩

theorem witness_DrawSpriteOutOfRangeFaults :
    (15#4 : Nibble).toNat ≠ 0 ∧ 4095 < ({ State.reset with index := 0x0FF2 } : State).index.toNat + (15#4 : Nibble).toNat - 1 := by
  decide

theorem witness_DrawTwiceErases :
    (0#4 : RegIdx) ≠ 15#4 ∧ (14#4 : RegIdx) ≠ 15#4 ∧
    ((15#4 : Nibble).toNat = 0 ∨ ({ State.reset with index := 0x0FF1 } : State).index.toNat + (15#4 : Nibble).toNat - 1 ≤ 4095) := by
  decide

/-- Glyph 0 at (0, 0) covers pixel 0; drawn over the same glyph already shown, the first draw clears it and the second does not
collide. -/
theorem witness_SecondDrawAlwaysCollides :
    ∃ s t u : State, (0#4 : RegIdx) ≠ 15#4 ∧ (1#4 : RegIdx) ≠ 15#4 ∧
      clipCovers s.mem s.index.toNat ((getV s 0).toNat % 64) ((getV s 1).toNat % 32) (5#4 : Nibble).toNat 0 = true ∧
      s.index.toNat + (5#4 : Nibble).toNat - 1 ≤ 4095 ∧ exec (.drawSprite 0 1 5) s = .next t ∧
      exec (.drawSprite 0 1 5) t = .next u := by
  exact ⟨State.reset, _, _, by decide, by decide, by decide, by decide, rfl, rfl⟩

theorem witness_StoreBcdWritesDigits :
    State.reset.mem.wf = true ∧ ({ State.reset with index := 0x0FFD } : State).index.toNat + 2 ≤ 4095 := by
  decide

theorem witness_StoreRegistersWritesBlock :
    State.reset.mem.wf = true ∧ ({ State.reset with index := 0x0FF0 } : State).index.toNat + (15#4 : RegIdx).toNat ≤ 4095 := by
  decide

theorem witness_SetRegistersReadsBlock :
    ({ State.reset with index := 0x0FF0 } : State).index.toNat + (15#4 : RegIdx).toNat ≤ 4095 ∧
    ({ State.reset with index := 0x0FFF } : State).index.toNat + (0#4 : RegIdx).toNat ≤ 4095 := by
  decide

theorem witness_BlockTransfersOutOfRangeFault :
    4095 < ({ State.reset with index := 0x0FFE } : State).index.toNat + 2 ∧
    4095 < ({ State.reset with index := 0x0FF1 } : State).index.toNat + (15#4 : RegIdx).toNat := by
  decide

/-- The load may run in a state with other registers. -/
theorem witness_StoreThenLoadRestores :
    ∃ t u : State, State.reset.mem.wf = true ∧
      ({ State.reset with index := 0x0FF0 } : State).index.toNat + (15#4 : RegIdx).toNat ≤ 4095 ∧
      exec (.storeRegistersInMemory 15) { State.reset with index := 0x0FF0 } = .next t ∧ u.mem = t.mem ∧
      u.index = 0x0FF0 ∧ getV u 3 = 7 := by
  exact ⟨_, setV 3 7 { State.reset with index := 0x0FF0 }, rfl, by decide, rfl, by decide, rfl, by decide⟩

theorem witness_RegisterFrame :
    ∃ t, exec (.addRegisters 1 2) State.reset = .next t ∧ writesReg (.addRegisters 1 2) 3 = false := by
  exact ⟨_, rfl, rfl⟩

/-- A storing form, and one that stores nothing. -/
theorem witness_MemoryFrame :
    ∃ t u, State.reset.mem.wf = true ∧ exec (.storeBcd 1) State.reset = .next t ∧
      ¬ (State.reset.index.toNat ≤ 3 ∧ 3 < State.reset.index.toNat + storeWidth (.storeBcd 1)) ∧
      exec (.jump 5) State.reset = .next u ∧ storeWidth (.jump 5) = 0 := by
  exact ⟨_, _, rfl, rfl, by decide, rfl, rfl⟩

theorem witness_SpecialRegisterOwners :
    ∃ t, exec .nop State.reset = .next t ∧ (∀ nnn, Instr.nop ≠ .subroutineCall nnn) ∧ Instr.nop ≠ .subroutineReturn ∧
      (∀ x, Instr.nop ≠ .setDelayTimer x) ∧ (∀ x, Instr.nop ≠ .setSoundTimer x) ∧ (∀ nnn, Instr.nop ≠ .setIndex nnn) ∧
      (∀ x, Instr.nop ≠ .addToIndex x) ∧ (∀ x, Instr.nop ≠ .setIndexToSprite x) ∧ Instr.nop ≠ .clearDisplay ∧
      (∀ x y n, Instr.nop ≠ .drawSprite x y n) ∧ (∀ x, Instr.nop ≠ .storeNextKeypress x) ∧
      (∀ x nn, Instr.nop ≠ .random x nn) := by
  refine ⟨_, rfl, ?_, ?_, ?_, ?_, ?_, ?_, ?_, ?_, ?_, ?_, ?_⟩ <;> intros <;> exact fun h => by cases h

theorem witness_FaultsArePrecise :
    ∃ t, exec .subroutineReturn State.reset = .next t ∧ t.fault ≠ State.reset.fault := by
  exact ⟨_, rfl, by decide⟩

/-- A fault, a plain advance and a skip. -/
theorem witness_PcAdvances :
    ∃ t u, State.reset.fault = none ∧ exec .subroutineReturn State.reset = .next t ∧ t.fault ≠ none ∧
      exec (.skipIfEqualImm 0 0) State.reset = .next u ∧ u.fault = none ∧ isTransfer (.skipIfEqualImm 0 0) = false ∧
      isSkip (.skipIfEqualImm 0 0) = true := by
  exact ⟨_, _, rfl, rfl, by decide, rfl, rfl, rfl, rfl⟩

/-- The reset state meets the invariant and has a next state; so does a state in the middle of a run, with a call pushed and a
written memory. -/
theorem witness_StepKeepsInvariant :
    (∃ t, Invariant State.reset ∧ step State.reset = .next t) ∧
    ∃ s t, s.sp = 1 ∧ s.romOpen = false ∧ Invariant s ∧ step s = .next t := by
  refine ⟨⟨_, ?_, rfl⟩, ?_⟩
  · exact ⟨rfl, by decide, by decide, (fun h => by cases h), (fun _ => ⟨rfl, rfl, rfl⟩), (fun _ h => by cases h)⟩
  · refine ⟨{ State.reset with
        sp := 1, stack := State.reset.stack.set 0 0x1000, romOpen := false, pc := 4094, mem := [(0xFFE, 0x12)] },
      _, rfl, rfl, ?_, rfl⟩
    exact ⟨by decide, by decide, by decide, (fun h => by cases h), (fun h => by cases h), (fun _ h => by cases h)⟩

end Sys2Proof.Tests
end

section
/-!
The outputs of a state (spec/10_state.md R33): what each of the five reads.
-/

namespace Sys2Proof.Machine

/-- R20: the sound timer alone decides. -/
@[simp] theorem soundActive_eq_true_iff (s : State) : soundActive s = true ↔ 0 < s.st.toNat := decide_eq_true_iff

@[simp] theorem outputs_soundActive (s : State) : (outputs s).soundActive = soundActive s := rfl

@[simp] theorem outputs_redrawPending (s : State) : (outputs s).redrawPending = s.redraw := rfl

@[simp] theorem outputs_frame (s : State) : (outputs s).frame = s.fb := rfl

@[simp] theorem outputs_fault (s : State) : (outputs s).fault = s.fault := rfl

@[simp] theorem outputs_ctrl (s : State) : (outputs s).ctrl = s.ctrl := rfl

/-- Settles O60: each output by its own lemma, `sound_active` through the sound timer. -/
theorem outputsFollowState : Obligations.OutputsFollowState := by
  intro s
  have hsound : (outputs s).soundActive = true ↔ 0 < s.st.toNat := by
    rw [outputs_soundActive, soundActive_eq_true_iff]
  exact ⟨hsound, outputs_redrawPending s, outputs_frame s, outputs_fault s, outputs_ctrl s⟩

end Sys2Proof.Machine
end

section
/-!
The immediate and register skips (spec/41_skip.md R90 to R94): the condition each hands to the common `skipIf`, and `skipIf`
read as a proposition.
-/

namespace Sys2Proof.Machine

theorem exec_skipIfEqualImm (x : RegIdx) (nn : Byte) (s : State) :
    exec (.skipIfEqualImm x nn) s = .next (skipIf (getV s x == nn) s) := rfl

theorem exec_skipIfNotEqualImm (x : RegIdx) (nn : Byte) (s : State) :
    exec (.skipIfNotEqualImm x nn) s = .next (skipIf (getV s x != nn) s) := rfl

theorem exec_skipIfEqualReg (x y : RegIdx) (s : State) :
    exec (.skipIfEqualReg x y) s = .next (skipIf (getV s x == getV s y) s) := rfl

theorem exec_skipIfNotEqualReg (x y : RegIdx) (s : State) :
    exec (.skipIfNotEqualReg x y) s = .next (skipIf (getV s x != getV s y) s) := rfl

/-- R90: a skip whose test decides `p` moves `PC` by `p` and nothing else. -/
theorem skipIf_eq_of_iff {c : Bool} {p : Prop} [Decidable p] (s : State) (h : c = true ↔ p) :
    skipIf c s = { s with pc := s.pc + (if p then 4#16 else 2#16) } := by
  rw [skipIf_eq]
  simp only [h]

/-- Settles O28: both forms are `skipIf` on the comparison of `V[x]` with `nn`. -/
theorem immediateSkipsCompare : Obligations.ImmediateSkipsCompare := by
  intro x nn s
  constructor
  · rw [exec_skipIfEqualImm, skipIf_eq_of_iff s beq_iff_eq]
  · rw [exec_skipIfNotEqualImm, skipIf_eq_of_iff s bne_iff_ne]

/-- Settles O29: both forms are `skipIf` on the comparison of `V[x]` with `V[y]`. -/
theorem registerSkipsCompare : Obligations.RegisterSkipsCompare := by
  intro x y s
  constructor
  · rw [exec_skipIfEqualReg, skipIf_eq_of_iff s beq_iff_eq]
  · rw [exec_skipIfNotEqualReg, skipIf_eq_of_iff s bne_iff_ne]

end Sys2Proof.Machine
end

section
/-!
Transfers and bitwise instructions (spec/42_transfer_bitwise.md R100 to R106): each writes one byte to `V[x]` and advances, and
that pair of updates has its rules here once.
-/

namespace Sys2Proof.Machine

/-! ### A register write followed by the advance of `PC` -/

section

variable (s : State) (x : RegIdx) (b : Byte)

theorem getV_advance_setV (r : RegIdx) : getV (advance (setV x b s)) r = if r = x then b else getV s r := by
  rw [getV_advance, getV_setV]

theorem getV_advance_setV_self : getV (advance (setV x b s)) x = b := by
  rw [getV_advance_setV, if_pos rfl]

theorem getV_advance_setV_of_ne (r : RegIdx) (h : r ≠ x) : getV (advance (setV x b s)) r = getV s r := by
  rw [getV_advance_setV, if_neg h]

/-- The frame: the register file and `PC` alone may differ. -/
theorem advance_setV_eq : advance (setV x b s) = { s with v := (advance (setV x b s)).v, pc := s.pc + 2#16 } := rfl

end

/-! ### The byte each instruction writes -/

theorem exec_setRegister (x : RegIdx) (nn : Byte) (s : State) :
    exec (.setRegister x nn) s = .next (advance (setV x nn s)) := rfl

theorem exec_addImmediate (x : RegIdx) (nn : Byte) (s : State) :
    exec (.addImmediate x nn) s = .next (advance (setV x (sumByte (getV s x) nn) s)) := rfl

theorem exec_copyRegister (x y : RegIdx) (s : State) :
    exec (.copyRegister x y) s = .next (advance (setV x (getV s y) s)) := rfl

theorem exec_or (x y : RegIdx) (s : State) :
    exec (.or x y) s = .next (advance (setV x (getV s x ||| getV s y) s)) := rfl

theorem exec_and (x y : RegIdx) (s : State) :
    exec (.and x y) s = .next (advance (setV x (getV s x &&& getV s y) s)) := rfl

theorem exec_xor (x y : RegIdx) (s : State) :
    exec (.xor x y) s = .next (advance (setV x (getV s x ^^^ getV s y) s)) := rfl

/-- Settles O32: each is one register write and the advance; the sum of AddImmediate is `sumByte`. -/
theorem transfersWriteOneRegister : Obligations.TransfersWriteOneRegister := by
  intro x y nn s
  refine ⟨⟨_, exec_setRegister x nn s, getV_advance_setV s x _, advance_setV_eq s x _⟩,
    ⟨_, exec_addImmediate x nn s, ?sum, getV_advance_setV_of_ne s x _, advance_setV_eq s x _⟩,
    ⟨_, exec_copyRegister x y s, getV_advance_setV s x _, advance_setV_eq s x _⟩⟩
  case sum => rw [getV_advance_setV_self, toNat_sumByte]

/-- Settles O33: each is one register write and the advance; the byte written is read bit by bit. -/
theorem bitwiseWriteOneRegister : Obligations.BitwiseWriteOneRegister := by
  intro x y s
  refine ⟨⟨_, exec_or x y s, fun k => ?or, getV_advance_setV_of_ne s x _, advance_setV_eq s x _⟩,
    ⟨_, exec_and x y s, fun k => ?and, getV_advance_setV_of_ne s x _, advance_setV_eq s x _⟩,
    ⟨_, exec_xor x y s, fun k => ?xor, getV_advance_setV_of_ne s x _, advance_setV_eq s x _⟩⟩
  case or => rw [getV_advance_setV_self, BitVec.getLsbD_or]
  case and => rw [getV_advance_setV_self, BitVec.getLsbD_and]
  case xor => rw [getV_advance_setV_self, BitVec.getLsbD_xor]

end Sys2Proof.Machine
end

section
/-!
The index loads (spec/44_index_random.md R120, spec/46_timer_key.md R144): each writes one word to `I` and advances, and neither
word needs more than the 16 bits of `I`.
-/

namespace Sys2Proof.Machine

/-! ### An index write followed by the advance of `PC` -/

theorem advance_setIndex_index (w : Word) (s : State) : (advance (setIndex w s)).index = w := by
  rw [advance_index, setIndex_index]

/-- The frame: `I` and `PC` alone may differ. -/
theorem advance_setIndex_eq (w : Word) (s : State) :
    advance (setIndex w s) = { s with index := (advance (setIndex w s)).index, pc := s.pc + 2#16 } := rfl

/-! ### The word each instruction writes -/

theorem exec_setIndex (nnn : Addr12) (s : State) :
    exec (.setIndex nnn) s = .next (advance (setIndex (zext12 nnn) s)) := rfl

theorem exec_setIndexToSprite (x : RegIdx) (s : State) :
    exec (.setIndexToSprite x) s = .next (advance (setIndex (BitVec.ofNat 16 ((getV s x).toNat * 5)) s)) := rfl

theorem toNat_zext12 (nnn : Addr12) : (zext12 nnn).toNat = nnn.toNat :=
  BitVec.toNat_setWidth_of_le (by decide)

/-- The largest product is 1275, so the word of `I` holds it whole. -/
theorem toNat_ofNat_byte_mul_five (b : Byte) : (BitVec.ofNat 16 (b.toNat * 5)).toNat = b.toNat * 5 := by
  have hb : b.toNat < 256 := b.isLt
  rw [BitVec.toNat_ofNat, Nat.mod_eq_of_lt (by omega)]

/-- Settles O37: each is one index write and the advance, and the word written does not wrap. -/
theorem indexLoads : Obligations.IndexLoads := by
  intro x nnn s
  refine ⟨⟨_, exec_setIndex nnn s, ?literal, advance_setIndex_eq _ s⟩,
    ⟨_, exec_setIndexToSprite x s, ?sprite, advance_setIndex_eq _ s⟩⟩
  case literal => rw [advance_setIndex_index, toNat_zext12]
  case sprite => rw [advance_setIndex_index, toNat_ofNat_byte_mul_five]

end Sys2Proof.Machine
end

section
/-!
The timer transfers (spec/46_timer_key.md R141 to R143): one byte copied between `V[x]` and a timer, and the advance. The read of
`DT` is a register write, so its rules are `getV_advance_setV` and `advance_setV_eq`.
-/

namespace Sys2Proof.Machine

theorem exec_getDelayTimer (x : RegIdx) (s : State) :
    exec (.getDelayTimer x) s = .next (advance (setV x s.dt s)) := rfl

theorem exec_setDelayTimer (x : RegIdx) (s : State) :
    exec (.setDelayTimer x) s = .next (advance (setDt (getV s x) s)) := rfl

theorem exec_setSoundTimer (x : RegIdx) (s : State) :
    exec (.setSoundTimer x) s = .next (advance (setSt (getV s x) s)) := rfl

theorem advance_setDt_eq (b : Byte) (s : State) : advance (setDt b s) = { s with dt := b, pc := s.pc + 2#16 } := rfl

theorem advance_setSt_eq (b : Byte) (s : State) : advance (setSt b s) = { s with st := b, pc := s.pc + 2#16 } := rfl

/-- R143: the byte written to `ST` decides `sound_active` at this same step. -/
theorem soundActive_advance_setSt_iff (b : Byte) (s : State) :
    soundActive (advance (setSt b s)) = true ↔ 0 < b.toNat := by
  rw [soundActive_eq_true_iff, advance_st, setSt_st]

/-- Settles O40: each is one write and the advance; the sound timer written is the one `sound_active` reads. -/
theorem timerTransfers : Obligations.TimerTransfers := by
  intro x s
  refine ⟨⟨_, exec_getDelayTimer x s, getV_advance_setV s x s.dt, advance_setV_eq s x s.dt⟩, ?setDelay,
    ⟨_, exec_setSoundTimer x s, soundActive_advance_setSt_iff _ s, advance_setSt_eq _ s⟩⟩
  case setDelay => rw [exec_setDelayTimer, advance_setDt_eq]

end Sys2Proof.Machine
end

section
/-!
The decoder and the encoder are inverse to each other, and both agree with the rows of the opcode map (spec/30_encoding.md R61
to R72). The idea of both directions: a word is put together from its fields by its form, and `Faithful` says of a decoder's
answer that it loses nothing of the word.
-/

namespace Sys2Proof

/-! ### A word is put together from its fields -/

theorem formNnn_fields (w : Word) : formNnn (fieldOp w) (fieldNnn w) = w := by
  apply BitVec.eq_of_getLsbD_eq
  intro k hk
  rw [getLsbD_formNnn, fieldOp, fieldNnn, BitVec.getLsbD_extractLsb', BitVec.getLsbD_extractLsb']
  by_cases h12 : k < 12
  · simp [h12]
  · simp [h12, show k - 12 < 4 by omega, show 12 + (k - 12) = k by omega]

theorem formXnn_fields (w : Word) : formXnn (fieldOp w) (fieldX w) (fieldNn w) = w := by
  apply BitVec.eq_of_getLsbD_eq
  intro k hk
  rw [getLsbD_formXnn, fieldOp, fieldX, fieldNn, BitVec.getLsbD_extractLsb', BitVec.getLsbD_extractLsb',
    BitVec.getLsbD_extractLsb']
  by_cases h8 : k < 8
  · simp [h8]
  · by_cases h12 : k < 12
    · simp [h8, h12, show k - 8 < 4 by omega, show 8 + (k - 8) = k by omega]
    · simp [h8, h12, show k - 12 < 4 by omega, show 12 + (k - 12) = k by omega]

theorem formXyn_fields (w : Word) : formXyn (fieldOp w) (fieldX w) (fieldY w) (fieldN w) = w := by
  apply BitVec.eq_of_getLsbD_eq
  intro k hk
  rw [getLsbD_formXyn, fieldOp, fieldX, fieldY, fieldN, BitVec.getLsbD_extractLsb', BitVec.getLsbD_extractLsb',
    BitVec.getLsbD_extractLsb', BitVec.getLsbD_extractLsb']
  by_cases h4 : k < 4
  · simp [h4]
  · by_cases h8 : k < 8
    · simp [h4, h8, show k - 4 < 4 by omega, show 4 + (k - 4) = k by omega]
    · by_cases h12 : k < 12
      · simp [h4, h8, h12, show k - 8 < 4 by omega, show 8 + (k - 8) = k by omega]
      · simp [h4, h8, h12, show k - 12 < 4 by omega, show 12 + (k - 12) = k by omega]

theorem formNnn_of_fieldOp {w : Word} {op : Nibble} (h : fieldOp w = op) : formNnn op (fieldNnn w) = w := by
  rw [← h, formNnn_fields]

theorem formXnn_of_fieldOp {w : Word} {op : Nibble} (h : fieldOp w = op) :
    formXnn op (fieldX w) (fieldNn w) = w := by
  rw [← h, formXnn_fields]

theorem formXnn_of_fields {w : Word} {op : Nibble} {nn : Byte} (h : fieldOp w = op) (hnn : fieldNn w = nn) :
    formXnn op (fieldX w) nn = w := by
  rw [← h, ← hnn, formXnn_fields]

theorem formXyn_of_fieldOp {w : Word} {op : Nibble} (h : fieldOp w = op) :
    formXyn op (fieldX w) (fieldY w) (fieldN w) = w := by
  rw [← h, formXyn_fields]

theorem formXyn_of_fields {w : Word} {op n : Nibble} (h : fieldOp w = op) (hn : fieldN w = n) :
    formXyn op (fieldX w) (fieldY w) n = w := by
  rw [← h, ← hn, formXyn_fields]

/-- A word of family 0 with `x = 0` is its low byte. -/
theorem eq_of_family0 {w : Word} {nn : Byte} (h : fieldOp w = 0#4) (hx : fieldX w = 0#4) (hnn : fieldNn w = nn) :
    w = formXnn 0#4 0#4 nn := by
  have hw := formXnn_of_fields h hnn
  rw [hx] at hw
  exact hw.symm

/-! ### Decoding an encoded instruction -/

/-- R65, R66: the decoder reads the fields of each form back, family by family. -/
theorem decodeWord_encodeWord (i : Instr) : decodeWord (encodeWord i) = .ok i := by
  cases i
  case nop | clearDisplay | subroutineReturn => rfl
  case jump nnn | subroutineCall nnn | setIndex nnn | jumpWithOffset nnn =>
    simp [decodeWord, decodeWordWith, encodeWord]
  case skipIfEqualImm x nn | skipIfNotEqualImm x nn | setRegister x nn | addImmediate x nn | random x nn =>
    simp [decodeWord, decodeWordWith, encodeWord]
  case skipIfEqualReg x y | skipIfNotEqualReg x y =>
    simp [decodeWord, decodeWordWith, encodeWord, decodeRegSkip]
  case copyRegister x y | or x y | and x y | xor x y | addRegisters x y | subtract x y | shiftRight x y |
      reverseSubtract x y | shiftLeft x y =>
    simp [decodeWord, decodeWordWith, encodeWord, decodeFamily8]
  case drawSprite x y n => simp [decodeWord, decodeWordWith, encodeWord]
  case skipIfKeyPressed x | skipIfKeyNotPressed x =>
    simp [decodeWord, decodeWordWith, encodeWord, decodeFamilyE]
  case getDelayTimer x | storeNextKeypress x | setDelayTimer x | setSoundTimer x | addToIndex x | setIndexToSprite x |
      storeBcd x | storeRegistersInMemory x | setRegistersFromMemory x =>
    simp [decodeWord, decodeWordWith, encodeWord, decodeFamilyF]

/-- R61: two bytes whose word decodes make one instruction, and the bytes after them are left over. -/
theorem decodeBytes_of_decodeWord {hi lo : Byte} {i : Instr} (h : decodeWord (wordOfBytes hi lo) = .ok i)
    (rest : List Byte) : decodeBytes (hi :: lo :: rest) = .ok (i, rest) := by
  rw [decodeBytes, h]

/-- Settles O1: the two bytes of an instruction make its word again, and that word decodes to the instruction. -/
theorem decodeInvertsEncode : Obligations.DecodeInvertsEncode := by
  intro i rest _
  have hword : decodeWord (wordOfBytes ((encodeWord i).extractLsb' 8 8) ((encodeWord i).extractLsb' 0 8)) = .ok i := by
    rw [wordOfBytes_split, decodeWord_encodeWord]
  exact decodeBytes_of_decodeWord hword rest

/-- No two instructions have the same word. -/
theorem encodeWord_injective : Function.Injective encodeWord := by
  intro i j h
  have hij : Except.ok (ε := DecodeError) i = .ok j := by
    rw [← decodeWord_encodeWord i, ← decodeWord_encodeWord j, h]
  exact Except.ok.inj hij

/-! ### The decoder loses nothing of a word -/

/-- What a decoder's answer to `w` may be: an instruction whose word is `w`, or the rejection of `w` by name. -/
def Faithful (w : Word) : Except DecodeError Instr → Prop
  | .ok i => encodeWord i = w
  | .error e => e = .unknown w

theorem faithful_decodeFamily0 {w : Word} (h : fieldOp w = 0x0#4) : Faithful w (decodeFamily0 .word w) := by
  unfold decodeFamily0
  split
  next => rfl
  next hx =>
    have hx : fieldX w = 0#4 := by simpa using hx
    split_ifs with h00 hE0 hEE
    · exact (eq_of_family0 h hx h00).symm
    · exact (eq_of_family0 h hx hE0).symm
    · exact (eq_of_family0 h hx hEE).symm
    · rfl

theorem faithful_decodeRegSkip {w : Word} {i : Instr} (h : fieldN w = 0#4 → encodeWord i = w) :
    Faithful w (decodeRegSkip .strict i w) := by
  unfold decodeRegSkip
  split
  next => rfl
  next hn => exact h (by simpa using hn)

theorem faithful_decodeFamily8 {w : Word} (h : fieldOp w = 0x8#4) : Faithful w (decodeFamily8 w) := by
  unfold decodeFamily8
  split_ifs with h0 h1 h2 h3 h4 h5 h6 h7 hE
  · exact formXyn_of_fields h h0
  · exact formXyn_of_fields h h1
  · exact formXyn_of_fields h h2
  · exact formXyn_of_fields h h3
  · exact formXyn_of_fields h h4
  · exact formXyn_of_fields h h5
  · exact formXyn_of_fields h h6
  · exact formXyn_of_fields h h7
  · exact formXyn_of_fields h hE
  · rfl

theorem faithful_decodeFamilyE {w : Word} (h : fieldOp w = 0xE#4) : Faithful w (decodeFamilyE w) := by
  unfold decodeFamilyE
  split_ifs with h9E hA1
  · exact formXnn_of_fields h h9E
  · exact formXnn_of_fields h hA1
  · rfl

theorem faithful_decodeFamilyF {w : Word} (h : fieldOp w = 0xF#4) : Faithful w (decodeFamilyF w) := by
  unfold decodeFamilyF
  split_ifs with h07 h0A h15 h18 h1E h29 h33 h55 h65
  · exact formXnn_of_fields h h07
  · exact formXnn_of_fields h h0A
  · exact formXnn_of_fields h h15
  · exact formXnn_of_fields h h18
  · exact formXnn_of_fields h h1E
  · exact formXnn_of_fields h h29
  · exact formXnn_of_fields h h33
  · exact formXnn_of_fields h h55
  · exact formXnn_of_fields h h65
  · rfl

/-- The decoder family by family (R65): the word is rebuilt by the family's form. -/
theorem faithful_decodeWord (w : Word) : Faithful w (decodeWord w) := by
  have family {op : Nibble} (h : (fieldOp w).toNat = op.toNat) : fieldOp w = op := BitVec.eq_of_toNat_eq h
  unfold decodeWord decodeWordWith
  split
  next h => exact faithful_decodeFamily0 (family h)
  next h => exact formNnn_of_fieldOp (family h)
  next h => exact formNnn_of_fieldOp (family h)
  next h => exact formXnn_of_fieldOp (family h)
  next h => exact formXnn_of_fieldOp (family h)
  next h => exact faithful_decodeRegSkip (formXyn_of_fields (family h))
  next h => exact formXnn_of_fieldOp (family h)
  next h => exact formXnn_of_fieldOp (family h)
  next h => exact faithful_decodeFamily8 (family h)
  next h => exact faithful_decodeRegSkip (formXyn_of_fields (family h))
  next h => exact formNnn_of_fieldOp (family h)
  next h => exact formNnn_of_fieldOp (family h)
  next h => exact formXnn_of_fieldOp (family h)
  next h => exact formXyn_of_fieldOp (family h)
  next h => exact faithful_decodeFamilyE (family h)
  next h => exact faithful_decodeFamilyF (family h)
  next => rfl

theorem encodeWord_of_decodeWord {w : Word} {i : Instr} (h : decodeWord w = .ok i) : encodeWord i = w := by
  have hw := faithful_decodeWord w
  rwa [h] at hw

theorem eq_unknown_of_decodeWord {w : Word} {e : DecodeError} (h : decodeWord w = .error e) : e = .unknown w := by
  have hw := faithful_decodeWord w
  rwa [h] at hw

/-- A word decodes to an instruction exactly when it is that instruction's word. -/
theorem decodeWord_eq_ok_iff {w : Word} {i : Instr} : decodeWord w = .ok i ↔ encodeWord i = w := by
  constructor
  · exact encodeWord_of_decodeWord
  · rintro rfl
    exact decodeWord_encodeWord i

/-- Settles O2: the decoder is faithful, branch by branch. -/
theorem encodeInvertsDecode : Obligations.EncodeInvertsDecode :=
  fun _ _ => encodeWord_of_decodeWord

/-! ### The rows of the opcode map -/

theorem and_F000 (w : Word) : w &&& 0xF000#16 = formNnn (fieldOp w) 0#12 := by
  conv_lhs => rw [← formNnn_fields w, show (0xF000#16 : Word) = BitVec.allOnes 4 ++ 0#12 from rfl, formNnn]
  rw [BitVec.and_append, BitVec.and_allOnes, BitVec.and_zero, formNnn]

theorem and_F00F (w : Word) : w &&& 0xF00F#16 = formXyn (fieldOp w) 0#4 0#4 (fieldN w) := by
  conv_lhs =>
    rw [← formXyn_fields w, formXyn,
      show (0xF00F#16 : Word) = BitVec.allOnes 4 ++ 0#4 ++ 0#4 ++ BitVec.allOnes 4 from rfl]
  rw [BitVec.and_append, BitVec.and_append, BitVec.and_append, BitVec.and_allOnes, BitVec.and_allOnes, BitVec.and_zero,
    BitVec.and_zero, formXyn]

theorem and_F0FF (w : Word) : w &&& 0xF0FF#16 = formXnn (fieldOp w) 0#4 (fieldNn w) := by
  conv_lhs =>
    rw [← formXnn_fields w, formXnn, show (0xF0FF#16 : Word) = BitVec.allOnes 4 ++ 0#4 ++ BitVec.allOnes 8 from rfl]
  rw [BitVec.and_append, BitVec.and_append, BitVec.and_allOnes, BitVec.and_allOnes, BitVec.and_zero, formXnn]

section

variable {w m : Word} {name : String} {op n : Nibble} {nn : Byte}

theorem matchesRow_iff {mask : Word} : matchesRow w (name, m, mask) = true ↔ w &&& mask = m := beq_iff_eq

theorem matchesRow_F000 (hop : fieldOp w = op) (hm : formNnn op 0#12 = m) :
    matchesRow w (name, m, 0xF000#16) = true := by
  rw [matchesRow_iff, and_F000, hop, hm]

theorem matchesRow_F00F (hop : fieldOp w = op) (hn : fieldN w = n) (hm : formXyn op 0#4 0#4 n = m) :
    matchesRow w (name, m, 0xF00F#16) = true := by
  rw [matchesRow_iff, and_F00F, hop, hn, hm]

theorem matchesRow_F0FF (hop : fieldOp w = op) (hnn : fieldNn w = nn) (hm : formXnn op 0#4 nn = m) :
    matchesRow w (name, m, 0xF0FF#16) = true := by
  rw [matchesRow_iff, and_F0FF, hop, hnn, hm]

theorem eq_of_matchesRow_FFFF (h : matchesRow w (name, m, 0xFFFF#16) = true) : m = w := by
  rw [← matchesRow_iff.mp h]
  exact BitVec.and_allOnes

theorem fieldOp_of_matchesRow_F000 (h : matchesRow w (name, m, 0xF000#16) = true) (hop : fieldOp m = op) :
    fieldOp w = op := by
  rw [← hop, ← matchesRow_iff.mp h, and_F000, fieldOp_formNnn]

theorem formXyn_of_matchesRow_F00F (h : matchesRow w (name, m, 0xF00F#16) = true) (hop : fieldOp m = op)
    (hn : fieldN m = n) : formXyn op (fieldX w) (fieldY w) n = w := by
  apply formXyn_of_fields
  · rw [← hop, ← matchesRow_iff.mp h, and_F00F, fieldOp_formXyn]
  · rw [← hn, ← matchesRow_iff.mp h, and_F00F, fieldN_formXyn]

theorem formXnn_of_matchesRow_F0FF (h : matchesRow w (name, m, 0xF0FF#16) = true) (hop : fieldOp m = op)
    (hnn : fieldNn m = nn) : formXnn op (fieldX w) nn = w := by
  apply formXnn_of_fields
  · rw [← hop, ← matchesRow_iff.mp h, and_F0FF, fieldOp_formXnn]
  · rw [← hnn, ← matchesRow_iff.mp h, and_F0FF, fieldNn_formXnn]

end

/-- The row that the opcode map lists under an instruction's mnemonic is a row of the map. -/
theorem exists_row_of_find {i : Instr} {row : String × Word × Word}
    (hfind : opcodeRows.find? (fun row => row.1 == mnemonicOf i) = some row)
    (hmatch : matchesRow (encodeWord i) row = true) :
    ∃ row ∈ opcodeRows, row.1 = mnemonicOf i ∧ matchesRow (encodeWord i) row = true :=
  ⟨row, List.mem_of_find?_eq_some hfind, by simpa using List.find?_some hfind, hmatch⟩

/-- R66: an instruction's word lies in the row of its mnemonic. -/
theorem exists_row_of_encodeWord (i : Instr) :
    ∃ row ∈ opcodeRows, row.1 = mnemonicOf i ∧ matchesRow (encodeWord i) row = true := by
  cases i
  case nop | clearDisplay | subroutineReturn => exact exists_row_of_find rfl (by decide)
  case jump nnn | subroutineCall nnn | setIndex nnn | jumpWithOffset nnn =>
    exact exists_row_of_find rfl (matchesRow_F000 (fieldOp_formNnn _ _) rfl)
  case skipIfEqualImm x nn | skipIfNotEqualImm x nn | setRegister x nn | addImmediate x nn | random x nn =>
    exact exists_row_of_find rfl (matchesRow_F000 (fieldOp_formXnn _ _ _) rfl)
  case drawSprite x y n => exact exists_row_of_find rfl (matchesRow_F000 (fieldOp_formXyn _ _ _ _) rfl)
  case skipIfEqualReg x y | skipIfNotEqualReg x y | copyRegister x y | or x y | and x y | xor x y | addRegisters x y |
      subtract x y | shiftRight x y | reverseSubtract x y | shiftLeft x y =>
    exact exists_row_of_find rfl (matchesRow_F00F (fieldOp_formXyn _ _ _ _) (fieldN_formXyn _ _ _ _) rfl)
  case skipIfKeyPressed x | skipIfKeyNotPressed x | getDelayTimer x | storeNextKeypress x | setDelayTimer x |
      setSoundTimer x | addToIndex x | setIndexToSprite x | storeBcd x | storeRegistersInMemory x |
      setRegistersFromMemory x =>
    exact exists_row_of_find rfl (matchesRow_F0FF (fieldOp_formXnn _ _ _) (fieldNn_formXnn _ _ _) rfl)

/-- R66: a word of a row is the word of an instruction of that row's mnemonic, whose fields are the word's. -/
theorem exists_instr_of_matchesRow (w : Word) :
    ∀ row ∈ opcodeRows, matchesRow w row = true → ∃ i, mnemonicOf i = row.1 ∧ encodeWord i = w := by
  simp only [opcodeRows, List.cons_append, List.nil_append, List.forall_mem_cons]
  exact ⟨fun h => ⟨.nop, rfl, eq_of_matchesRow_FFFF h⟩,
    fun h => ⟨.clearDisplay, rfl, eq_of_matchesRow_FFFF h⟩,
    fun h => ⟨.subroutineReturn, rfl, eq_of_matchesRow_FFFF h⟩,
    fun h => ⟨.jump _, rfl, formNnn_of_fieldOp (fieldOp_of_matchesRow_F000 h rfl)⟩,
    fun h => ⟨.subroutineCall _, rfl, formNnn_of_fieldOp (fieldOp_of_matchesRow_F000 h rfl)⟩,
    fun h => ⟨.skipIfEqualImm _ _, rfl, formXnn_of_fieldOp (fieldOp_of_matchesRow_F000 h rfl)⟩,
    fun h => ⟨.skipIfNotEqualImm _ _, rfl, formXnn_of_fieldOp (fieldOp_of_matchesRow_F000 h rfl)⟩,
    fun h => ⟨.skipIfEqualReg _ _, rfl, formXyn_of_matchesRow_F00F h rfl rfl⟩,
    fun h => ⟨.setRegister _ _, rfl, formXnn_of_fieldOp (fieldOp_of_matchesRow_F000 h rfl)⟩,
    fun h => ⟨.addImmediate _ _, rfl, formXnn_of_fieldOp (fieldOp_of_matchesRow_F000 h rfl)⟩,
    fun h => ⟨.copyRegister _ _, rfl, formXyn_of_matchesRow_F00F h rfl rfl⟩,
    fun h => ⟨.or _ _, rfl, formXyn_of_matchesRow_F00F h rfl rfl⟩,
    fun h => ⟨.and _ _, rfl, formXyn_of_matchesRow_F00F h rfl rfl⟩,
    fun h => ⟨.xor _ _, rfl, formXyn_of_matchesRow_F00F h rfl rfl⟩,
    fun h => ⟨.addRegisters _ _, rfl, formXyn_of_matchesRow_F00F h rfl rfl⟩,
    fun h => ⟨.subtract _ _, rfl, formXyn_of_matchesRow_F00F h rfl rfl⟩,
    fun h => ⟨.shiftRight _ _, rfl, formXyn_of_matchesRow_F00F h rfl rfl⟩,
    fun h => ⟨.reverseSubtract _ _, rfl, formXyn_of_matchesRow_F00F h rfl rfl⟩,
    fun h => ⟨.shiftLeft _ _, rfl, formXyn_of_matchesRow_F00F h rfl rfl⟩,
    fun h => ⟨.skipIfNotEqualReg _ _, rfl, formXyn_of_matchesRow_F00F h rfl rfl⟩,
    fun h => ⟨.setIndex _, rfl, formNnn_of_fieldOp (fieldOp_of_matchesRow_F000 h rfl)⟩,
    fun h => ⟨.jumpWithOffset _, rfl, formNnn_of_fieldOp (fieldOp_of_matchesRow_F000 h rfl)⟩,
    fun h => ⟨.random _ _, rfl, formXnn_of_fieldOp (fieldOp_of_matchesRow_F000 h rfl)⟩,
    fun h => ⟨.drawSprite _ _ _, rfl, formXyn_of_fieldOp (fieldOp_of_matchesRow_F000 h rfl)⟩,
    fun h => ⟨.skipIfKeyPressed _, rfl, formXnn_of_matchesRow_F0FF h rfl rfl⟩,
    fun h => ⟨.skipIfKeyNotPressed _, rfl, formXnn_of_matchesRow_F0FF h rfl rfl⟩,
    fun h => ⟨.getDelayTimer _, rfl, formXnn_of_matchesRow_F0FF h rfl rfl⟩,
    fun h => ⟨.storeNextKeypress _, rfl, formXnn_of_matchesRow_F0FF h rfl rfl⟩,
    fun h => ⟨.setDelayTimer _, rfl, formXnn_of_matchesRow_F0FF h rfl rfl⟩,
    fun h => ⟨.setSoundTimer _, rfl, formXnn_of_matchesRow_F0FF h rfl rfl⟩,
    fun h => ⟨.addToIndex _, rfl, formXnn_of_matchesRow_F0FF h rfl rfl⟩,
    fun h => ⟨.setIndexToSprite _, rfl, formXnn_of_matchesRow_F0FF h rfl rfl⟩,
    fun h => ⟨.storeBcd _, rfl, formXnn_of_matchesRow_F0FF h rfl rfl⟩,
    fun h => ⟨.storeRegistersInMemory _, rfl, formXnn_of_matchesRow_F0FF h rfl rfl⟩,
    fun h => ⟨.setRegistersFromMemory _, rfl, formXnn_of_matchesRow_F0FF h rfl rfl⟩,
    List.forall_mem_nil _⟩

/-- R72: a word that does not decode lies in no row, since a word of a row is some instruction's. -/
theorem matchesRow_eq_false_of_decodeWord {w : Word} {e : DecodeError} (h : decodeWord w = .error e) :
    ∀ row ∈ opcodeRows, matchesRow w row = false := by
  intro row hrow
  by_contra hmatch
  obtain ⟨i, -, hi⟩ := exists_instr_of_matchesRow w row hrow (by simpa using hmatch)
  have hok : decodeWord w = .ok i := decodeWord_eq_ok_iff.mpr hi
  rw [h] at hok
  cases hok

/-- Settles O3: an accepted word is its instruction's word, which lies in the row of the mnemonic; a word of a row would
decode. -/
theorem decoderFollowsOpcodeMap : Obligations.DecoderFollowsOpcodeMap := by
  intro w
  constructor
  · intro i h
    rw [← encodeWord_of_decodeWord h]
    exact exists_row_of_encodeWord i
  · intro e h
    exact ⟨eq_unknown_of_decodeWord h, matchesRow_eq_false_of_decodeWord h⟩

/-- No mnemonic names two rows. -/
theorem opcodeRows_eq_of_mnemonic :
    ∀ a ∈ opcodeRows, ∀ b ∈ opcodeRows, a.1 = b.1 → a = b := by
  decide

/-- Settles O4: in two rows the word would be the word of two instructions of different mnemonics. -/
theorem opcodeRowsAreDisjoint : Obligations.OpcodeRowsAreDisjoint := by
  intro w a ha b hb hwa hwb
  obtain ⟨i, hia, hi⟩ := exists_instr_of_matchesRow w a ha hwa
  obtain ⟨j, hjb, hj⟩ := exists_instr_of_matchesRow w b hb hwb
  have hij : i = j := encodeWord_injective (hi.trans hj.symm)
  exact opcodeRows_eq_of_mnemonic a ha b hb (by rw [← hia, ← hjb, hij])

/-- Settles O5: the decoder evaluated on each word. -/
theorem sampleWordsDecode : Obligations.SampleWordsDecode := by
  unfold Obligations.SampleWordsDecode
  decide

/-! ### The other values of the parameters (R46, R67, R68) -/

theorem decodeRegSkip_ignored (i : Instr) (w : Word) : decodeRegSkip .ignored i w = .ok i := by
  simp [decodeRegSkip]

theorem decodeWordWith_of_family0 (f0 : Family0Match) (ln : LowNibble59) {w : Word} (h : fieldOp w = 0x0#4) :
    decodeWordWith f0 ln w = decodeFamily0 f0 w := by
  rw [decodeWordWith, h]
  rfl

theorem decodeWordWith_ignored_of_family5 (f0 : Family0Match) {w : Word} (h : fieldOp w = 0x5#4) :
    decodeWordWith f0 .ignored w = .ok (.skipIfEqualReg (fieldX w) (fieldY w)) := by
  rw [decodeWordWith, h]
  exact decodeRegSkip_ignored _ w

theorem decodeWordWith_ignored_of_family9 (f0 : Family0Match) {w : Word} (h : fieldOp w = 0x9#4) :
    decodeWordWith f0 .ignored w = .ok (.skipIfNotEqualReg (fieldX w) (fieldY w)) := by
  rw [decodeWordWith, h]
  exact decodeRegSkip_ignored _ w

/-- R67: the low byte alone decides under `low_byte`, and under `word` too once bits 11..8 are clear. -/
theorem decodeFamily0_lowByte_iff {v w : Word} (hx : fieldX v = 0#4) (hnn : fieldNn v = fieldNn w) (i : Instr) :
    decodeFamily0 .lowByte w = .ok i ↔ decodeFamily0 .word v = .ok i := by
  have hlow : ¬ (Family0Match.lowByte = .word ∧ fieldX w ≠ 0#4) := fun h => by cases h.1
  have hword : ¬ (Family0Match.word = .word ∧ fieldX v ≠ 0#4) := fun h => h.2 hx
  unfold decodeFamily0
  rw [if_neg hlow, if_neg hword, hnn]
  split_ifs <;> simp

/-- R46: below the end of memory only parity could raise a fetch fault. -/
theorem fetchFault_allow (pc : Word) (h : pc.toNat ≤ 4094) : Machine.fetchFault .allow pc = none := by
  rw [Machine.fetchFault, if_neg (by omega), if_neg (by simp)]

/-- Settles O6: each clause is the rule of one family or of the fetch under that value. -/
theorem otherParameterValues : Obligations.OtherParameterValues := by
  refine ⟨fun f0 w h => decodeWordWith_ignored_of_family5 f0 h, fun f0 w h => decodeWordWith_ignored_of_family9 f0 h,
    fun ln w i h => ?family0, fetchFault_allow⟩
  case family0 =>
    have hop : fieldOp (w &&& 0xF0FF#16) = 0x0#4 := by rw [and_F0FF, fieldOp_formXnn, h]
    rw [decodeWordWith_of_family0 _ _ h, decodeWordWith_of_family0 _ _ hop]
    apply decodeFamily0_lowByte_iff
    · rw [and_F0FF, fieldX_formXnn]
    · rw [and_F0FF, fieldNn_formXnn]

end Sys2Proof
end

section
/-!
What an instruction leaves, said once for all 35: `exec` answers either the state with a fault record latched, or `completed`,
the state of the instruction's own rules when nothing faults. In `completed` every arm is an update of named fields, so what
an instruction leaves unchanged is read off; the rules over all instructions (spec/10_state.md R10, R13, R16, R29,
spec/20_memory.md R55, spec/60_exceptions.md R161, R168) follow from that and from the two outcomes.
-/

namespace Sys2Proof.Machine

/-! ### The stack as it stands after a push or a pop that succeeds -/

/-- `STACK[SP] <- w; SP <- SP + 1`, for `SP` below 16. -/
def pushed (w : Word) (s : State) : State :=
  { s with stack := s.stack.setIfInBounds s.sp.val w, sp := Fin.ofNat 17 (s.sp.val + 1) }

/-- `SP <- SP - 1`, for `SP` above 0. -/
def popped (s : State) : State := { s with sp := Fin.ofNat 17 (s.sp.val - 1) }

/-- The entry a pop uncovers. -/
def topEntry (s : State) : Word := s.stack[s.sp.val - 1]?.getD 0#16

theorem pushStack_eq_pushed (w : Word) (s : State) (h : s.sp.val < 16) : pushStack w s = some (pushed w s) := by
  have hsp : (⟨s.sp.val + 1, Nat.succ_lt_succ h⟩ : Fin 17) = Fin.ofNat 17 (s.sp.val + 1) :=
    Fin.ext (Nat.mod_eq_of_lt (by omega)).symm
  have hstack : s.stack.set s.sp.val w h = s.stack.setIfInBounds s.sp.val w := by
    apply Vector.ext
    intro k hk
    rw [Vector.getElem_set, Vector.getElem_setIfInBounds]
  rw [pushStack_of_lt w s h, hsp, hstack, pushed]

theorem popStack_eq_popped (s : State) (h : 0 < s.sp.val) : popStack s = some (topEntry s, popped s) := by
  have hsp : (⟨s.sp.val - 1, by omega⟩ : Fin 17) = Fin.ofNat 17 (s.sp.val - 1) :=
    Fin.ext (Nat.mod_eq_of_lt (by omega)).symm
  have htop : s.stack[s.sp.val - 1]'(by omega) = topEntry s := by
    rw [topEntry, Vector.getElem?_eq_getElem (by omega), Option.getD_some]
  rw [popStack_of_pos s h, hsp, htop, popped]

/-! ### The key a key skip reads -/

/-- A key number up to 15 is its own low nibble. -/
theorem keyOperand_eq_keyLevel (p : KeyIndexPolicy) (s : State) {k : Byte} (h : k.toNat < 16) :
    keyOperand p s k = some (keyLevel s (k.setWidth 4)) := by
  rw [keyOperand.eq_def, if_pos h]

/-- Above 15 the parameter the model takes has no key to answer (R95). -/
theorem keyOperand_fault (s : State) {k : Byte} (h : 15 < k.toNat) : keyOperand paramKeyIndex s k = none :=
  keyOperand_of_ge paramKeyIndex s k h

/-! ### The two outcomes -/

/-- The state a flag-writing instruction leaves: the result, then the flag, then the advance (R110). -/
def flagged (x : RegIdx) (r : Byte) (f : Bool) (s : State) : State := advance (setV vfIdx (flagByte f) (setV x r s))

/-- The state an instruction leaves when it does not fault. -/
def completed (i : Instr) (s : State) : State :=
  match i with
  | .nop => advance s
  | .clearDisplay => advance (showFrame 0#2048 s)
  | .subroutineReturn => setPc (topEntry s) (popped s)
  | .jump nnn => setPc (zext12 nnn) s
  | .subroutineCall nnn => setPc (zext12 nnn) (pushed (s.pc + 2#16) s)
  | .skipIfEqualImm x nn => { s with pc := s.pc + (if getV s x == nn then 4#16 else 2#16) }
  | .skipIfNotEqualImm x nn => { s with pc := s.pc + (if getV s x != nn then 4#16 else 2#16) }
  | .skipIfEqualReg x y => { s with pc := s.pc + (if getV s x == getV s y then 4#16 else 2#16) }
  | .setRegister x nn => advance (setV x nn s)
  | .addImmediate x nn => advance (setV x (sumByte (getV s x) nn) s)
  | .copyRegister x y => advance (setV x (getV s y) s)
  | .or x y => advance (setV x (getV s x ||| getV s y) s)
  | .and x y => advance (setV x (getV s x &&& getV s y) s)
  | .xor x y => advance (setV x (getV s x ^^^ getV s y) s)
  | .addRegisters x y => flagged x (sumByte (getV s x) (getV s y)) (carryOut (getV s x) (getV s y)) s
  | .subtract x y => flagged x (diffByte (getV s x) (getV s y)) (noBorrow (getV s x) (getV s y)) s
  | .shiftRight x _ => flagged x (halfByte (getV s x)) (bitOutRight (getV s x)) s
  | .reverseSubtract x y => flagged x (diffByte (getV s y) (getV s x)) (noBorrow (getV s y) (getV s x)) s
  | .shiftLeft x _ => flagged x (doubleByte (getV s x)) (bitOutLeft (getV s x)) s
  | .skipIfNotEqualReg x y => { s with pc := s.pc + (if getV s x != getV s y then 4#16 else 2#16) }
  | .setIndex nnn => advance (setIndex (zext12 nnn) s)
  | .jumpWithOffset nnn => setPc (zext8 (getV s 0#4) + zext12 nnn) s
  | .random x nn => advance (countDraw (setV x (Config.randomByte s.draws &&& nn) s))
  | .drawSprite x y n => drawn paramDrawEdge x y n.toNat s
  | .skipIfKeyPressed x => { s with pc := s.pc + (if keyLevel s ((getV s x).setWidth 4) == true then 4#16 else 2#16) }
  | .skipIfKeyNotPressed x =>
    { s with pc := s.pc + (if keyLevel s ((getV s x).setWidth 4) == false then 4#16 else 2#16) }
  | .getDelayTimer x => advance (setV x s.dt s)
  | .storeNextKeypress x => advance (awaitKey x s)
  | .setDelayTimer x => advance (setDt (getV s x) s)
  | .setSoundTimer x => advance (setSt (getV s x) s)
  | .addToIndex x => advance (setIndex (BitVec.ofNat 16 (s.index.toNat + (getV s x).toNat)) s)
  | .setIndexToSprite x => advance (setIndex (BitVec.ofNat 16 ((getV s x).toNat * 5)) s)
  | .storeBcd x => advance (setMem (Memory.writeBytes s.mem s.index.toNat (bcdDigits (getV s x))) s)
  | .storeRegistersInMemory x =>
    advance (setMem (Memory.writeBytes s.mem s.index.toNat (regList s (x.toNat + 1))) s)
  | .setRegistersFromMemory x => advance { s with v := (loadRegs s.mem s.index.toNat (x.toNat + 1) s).v }

/-- What `exec` answers when `i` completes, and when it raises: a precise fault by an instruction of R161. -/
def Answers (i : Instr) (s : State) (o : Host.Outcome State Fault Refusal) : Prop :=
  o = .next (completed i s) ∨
    mayRaise i = true ∧ ∃ k a, o = .next (raise k (encodeWord i) a s) ∧ (FaultRecord.mk k s.pc (encodeWord i) a).Proper

section

variable {i : Instr} {s : State}

/-- An access through `I` completes, or raises MemoryFault with an address that does not exist. -/
theorem answers_withinMemory (hi : mayRaise i = true) (e : Nat) {done : State} (hdone : done = completed i s) :
    Answers i s (.next (withinMemory e (encodeWord i) s done)) := by
  unfold withinMemory
  split
  · exact .inl (by rw [hdone])
  · exact .inr ⟨hi, .memoryFault, _, rfl, le_lowestOutOfRange s.index⟩

/-- A key skip completes for a key number up to 15, and raises KeyIndexFault above. -/
theorem answers_keySkip (hi : mayRaise i = true) (want : Bool) (x : RegIdx)
    (hdone : completed i s =
      { s with pc := s.pc + (if keyLevel s ((getV s x).setWidth 4) == want then 4#16 else 2#16) }) :
    Answers i s (.next (keySkip paramKeyIndex want x (encodeWord i) s)) := by
  by_cases h : (getV s x).toNat < 16
  · left
    rw [keySkip, keyOperand_eq_keyLevel paramKeyIndex s h, hdone, ← skipIf_eq]
  · right
    rw [keySkip, keyOperand_fault s (by omega)]
    exact ⟨hi, .keyIndexFault, 0#16, rfl, rfl⟩

end

theorem answers_subroutineReturn (s : State) : Answers .subroutineReturn s (execSubroutineReturn s) := by
  by_cases h : 0 < s.sp.val
  · left
    rw [execSubroutineReturn, popStack_eq_popped s h]
    rfl
  · right
    rw [execSubroutineReturn, popStack_of_empty s (by omega)]
    exact ⟨rfl, .stackUnderflow, 0#16, rfl, rfl⟩

theorem answers_subroutineCall (nnn : Addr12) (s : State) :
    Answers (.subroutineCall nnn) s (execSubroutineCall nnn s) := by
  by_cases h : s.sp.val < 16
  · left
    rw [execSubroutineCall, pushStack_eq_pushed _ s h]
    rfl
  · right
    rw [execSubroutineCall, pushStack_of_full _ s (by omega)]
    exact ⟨rfl, .stackOverflow, 0#16, rfl, rfl⟩

theorem answers_drawSprite (x y : RegIdx) (n : Nibble) (s : State) :
    Answers (.drawSprite x y n) s (execDrawSprite x y n s) := by
  unfold execDrawSprite drawSpriteWith
  split
  next h => exact .inl (by rw [completed, h])
  next => exact answers_withinMemory rfl _ rfl

/-- The two outcomes of every instruction. -/
theorem answers_exec (i : Instr) (s : State) : Answers i s (exec i s) := by
  cases i
  case subroutineReturn => exact answers_subroutineReturn s
  case subroutineCall nnn => exact answers_subroutineCall nnn s
  case drawSprite x y n => exact answers_drawSprite x y n s
  case skipIfKeyPressed x | skipIfKeyNotPressed x => exact answers_keySkip rfl _ x rfl
  case storeBcd x | storeRegistersInMemory x => exact answers_withinMemory rfl _ rfl
  case setRegistersFromMemory x => exact answers_withinMemory rfl _ (by rw [loadRegs_eq]; rfl)
  case skipIfEqualImm x nn => exact .inl (by rw [exec_skipIfEqualImm, skipIf_eq]; rfl)
  case skipIfNotEqualImm x nn => exact .inl (by rw [exec_skipIfNotEqualImm, skipIf_eq]; rfl)
  case skipIfEqualReg x y => exact .inl (by rw [exec_skipIfEqualReg, skipIf_eq]; rfl)
  case skipIfNotEqualReg x y => exact .inl (by rw [exec_skipIfNotEqualReg, skipIf_eq]; rfl)
  case addRegisters | subtract | reverseSubtract | shiftRight | shiftLeft => exact .inl (finishFlagged_flagLast _ _ _ s)
  all_goals exact .inl rfl

/-- The outcomes of an instruction that answers `t`. -/
theorem eq_completed_or_raise {i : Instr} {s t : State} (h : exec i s = .next t) :
    t = completed i s ∨
      mayRaise i = true ∧ ∃ k a, t = raise k (encodeWord i) a s ∧ (FaultRecord.mk k s.pc (encodeWord i) a).Proper := by
  have ha := answers_exec i s
  rw [h] at ha
  obtain hdone | ⟨hi, k, a, hraise, hproper⟩ := ha
  · exact .inl (Host.Outcome.next.inj hdone)
  · exact .inr ⟨hi, k, a, Host.Outcome.next.inj hraise, hproper⟩

/-- Settles O57: both outcomes are next states. -/
theorem everyInstructionAnswersNext : Obligations.EveryInstructionAnswersNext := by
  intro i s
  obtain h | ⟨-, k, a, h, -⟩ := answers_exec i s
  · exact ⟨_, h⟩
  · exact ⟨_, h⟩

/-! ### What `completed` leaves unchanged -/

section

variable {i : Instr} {s : State}

theorem getV_flagged_of_ne {x r : RegIdx} (b : Byte) (f : Bool) (hx : r ≠ x) (hvf : r ≠ vfIdx) :
    getV (flagged x b f s) r = getV s r := by
  rw [flagged, getV_advance, getV_setV, if_neg hvf, getV_setV, if_neg hx]

/-- R13, R29: the registers an instruction does not write. -/
theorem getV_completed {r : RegIdx} (h : writesReg i r = false) : getV (completed i s) r = getV s r := by
  cases i
  case setRegister x nn | addImmediate x nn | copyRegister x y | or x y | and x y | xor x y | getDelayTimer x |
      random x nn =>
    have hr : r ≠ x := by simpa [writesReg] using h
    simp [completed, hr]
  case addRegisters x y | subtract x y | reverseSubtract x y | shiftRight x y | shiftLeft x y =>
    have hr : r ≠ x ∧ r ≠ vfIdx := by simpa [writesReg] using h
    exact getV_flagged_of_ne _ _ hr.1 hr.2
  case drawSprite x y n =>
    have hr : r ≠ vfIdx := by simpa [writesReg] using h
    simp [completed, drawn, hr]
  case setRegistersFromMemory x =>
    have hr : ¬ r.toNat < x.toNat + 1 := by simpa [writesReg] using h
    have hx : x.toNat < 16 := x.isLt
    have hload := getV_loadRegs s.mem s.index.toNat (x.toNat + 1) s r (by omega)
    rw [if_neg hr] at hload
    exact hload
  all_goals rfl

theorem completed_mem_of_storeWidth (h : storeWidth i = 0) : (completed i s).mem = s.mem := by
  cases i
  case storeBcd x => cases h
  case storeRegistersInMemory x => cases h
  all_goals rfl

theorem completed_stack (h : ∀ nnn, i ≠ .subroutineCall nnn) : (completed i s).stack = s.stack := by
  cases i
  case subroutineCall nnn => exact absurd rfl (h nnn)
  all_goals rfl

theorem completed_sp (h : ∀ nnn, i ≠ .subroutineCall nnn) (hr : i ≠ .subroutineReturn) :
    (completed i s).sp = s.sp := by
  cases i
  case subroutineCall nnn => exact absurd rfl (h nnn)
  case subroutineReturn => exact absurd rfl hr
  all_goals rfl

theorem completed_dt (h : ∀ x, i ≠ .setDelayTimer x) : (completed i s).dt = s.dt := by
  cases i
  case setDelayTimer x => exact absurd rfl (h x)
  all_goals rfl

theorem completed_st (h : ∀ x, i ≠ .setSoundTimer x) : (completed i s).st = s.st := by
  cases i
  case setSoundTimer x => exact absurd rfl (h x)
  all_goals rfl

theorem completed_index (hset : ∀ nnn, i ≠ .setIndex nnn) (hadd : ∀ x, i ≠ .addToIndex x)
    (hsprite : ∀ x, i ≠ .setIndexToSprite x) : (completed i s).index = s.index := by
  cases i
  case setIndex nnn => exact absurd rfl (hset nnn)
  case addToIndex x => exact absurd rfl (hadd x)
  case setIndexToSprite x => exact absurd rfl (hsprite x)
  all_goals rfl

theorem completed_frame (hclear : i ≠ .clearDisplay) (hdraw : ∀ x y n, i ≠ .drawSprite x y n) :
    (completed i s).fb = s.fb ∧ (completed i s).redraw = s.redraw := by
  cases i
  case clearDisplay => exact absurd rfl hclear
  case drawSprite x y n => exact absurd rfl (hdraw x y n)
  all_goals exact ⟨rfl, rfl⟩

theorem completed_wait (h : ∀ x, i ≠ .storeNextKeypress x) :
    (completed i s).ctrl = s.ctrl ∧ (completed i s).kx = s.kx := by
  cases i
  case storeNextKeypress x => exact absurd rfl (h x)
  all_goals exact ⟨rfl, rfl⟩

theorem completed_draws (h : ∀ x nn, i ≠ .random x nn) : (completed i s).draws = s.draws := by
  cases i
  case random x nn => exact absurd rfl (h x nn)
  all_goals rfl

variable (i s)

@[simp] theorem completed_keys : (completed i s).keys = s.keys := by cases i <;> rfl

@[simp] theorem completed_pending : (completed i s).pending = s.pending := by cases i <;> rfl

@[simp] theorem completed_romOpen : (completed i s).romOpen = s.romOpen := by cases i <;> rfl

@[simp] theorem completed_fault : (completed i s).fault = s.fault := by cases i <;> rfl

variable {i}

/-- R16, R90: the length of the instruction, twice that for a skip taken. -/
theorem completed_pc (h : isTransfer i = false) :
    (completed i s).pc = s.pc + 2#16 ∨ isSkip i = true ∧ (completed i s).pc = s.pc + 4#16 := by
  have skip (c : Prop) [Decidable c] : s.pc + (if c then 4#16 else 2#16) = s.pc + 2#16 ∨
      s.pc + (if c then 4#16 else 2#16) = s.pc + 4#16 := by
    by_cases hc : c <;> simp [hc]
  cases i
  case jump | subroutineCall | subroutineReturn | jumpWithOffset => cases h
  case skipIfEqualImm | skipIfNotEqualImm | skipIfEqualReg | skipIfNotEqualReg | skipIfKeyPressed | skipIfKeyNotPressed =>
    exact (skip _).imp_right fun h4 => ⟨rfl, h4⟩
  all_goals exact .inl rfl

end

/-! ### The rules over all instructions -/

/-- Settles O52: a completed instruction writes the registers of R13 and R29, a fault none. -/
theorem registerFrame : Obligations.RegisterFrame := by
  intro i s t h r hr
  obtain rfl | ⟨-, k, a, rfl, -⟩ := eq_completed_or_raise h
  · exact getV_completed hr
  · exact getV_raise s r k _ a

/-- Settles O54: the owners are read off `completed`, and a fault changes none of these. -/
theorem specialRegisterOwners : Obligations.SpecialRegisterOwners := by
  intro i s t h
  obtain rfl | ⟨-, k, a, rfl, -⟩ := eq_completed_or_raise h
  · exact ⟨completed_stack, completed_sp, completed_dt, completed_st, completed_index, completed_frame, completed_wait,
      completed_draws, completed_keys i s, completed_pending i s, completed_romOpen i s⟩
  · simp

/-- Settles O55: a completed instruction keeps `FAULT`, so the outcome is the raise, which latches one record. -/
theorem faultsArePrecise : Obligations.FaultsArePrecise := by
  intro i s t h hfault
  obtain rfl | ⟨hi, k, a, rfl, hproper⟩ := eq_completed_or_raise h
  · exact absurd (completed_fault i s) hfault
  · exact ⟨hi, ⟨k, s.pc, encodeWord i, a⟩, rfl, rfl, rfl, hproper⟩

/-- Settles O56: a fault keeps `PC`; otherwise the instruction completes. -/
theorem pcAdvances : Obligations.PcAdvances := by
  intro i s t hs h
  obtain rfl | ⟨-, k, a, rfl, -⟩ := eq_completed_or_raise h
  · exact ⟨fun hf => absurd (by rw [completed_fault, hs]) hf, fun _ hi => completed_pc s hi⟩
  · exact ⟨fun _ => raise_pc s k _ a, fun hf => by simp at hf⟩

end Sys2Proof.Machine
end

section
/-!
The Step event and the choice of the next event (spec/30_encoding.md R60, spec/60_exceptions.md R167, R170, R171): one equation
per way each can go.
-/

namespace Sys2Proof.Machine

/-! ### The next event -/

section

variable {s : State}

theorem step_of_pending {e : Event} {rest : List Event} (h : s.pending = e :: rest) :
    step s = deliver e { s with pending := rest } := by
  rw [step, nextEvent, h]

theorem step_of_idle (h : s.pending = []) (hf : s.fault = none) : step s = stepEvent s := by
  rw [step, nextEvent, h, hf]

theorem step_of_stopped {r : FaultRecord} (h : s.pending = []) (hf : s.fault = some r) : step s = .fault (.halted r) := by
  rw [step, nextEvent, h, hf]

/-- A schedule that is empty is the one the state holds. -/
theorem with_pending_of_idle (h : s.pending = []) : { s with pending := [] } = s := by
  rw [← h]

/-- The Step the surroundings scheduled, or the one taken when nothing is scheduled (log entry 10). -/
theorem step_of_step {rest : List Event} (hf : s.fault = none)
    (h : (s.pending = [] ∧ rest = []) ∨ s.pending = .step :: rest) : step s = stepEvent { s with pending := rest } := by
  obtain ⟨hidle, rfl⟩ | hstep := h
  · rw [step_of_idle hidle hf, with_pending_of_idle hidle]
  · exact step_of_pending hstep

theorem halted_of_fault {r : FaultRecord} (h : s.fault = some r) : halted s = true := by rw [halted, h]; rfl

theorem not_halted_of_fault (h : s.fault = none) : halted s = false := by rw [halted, h]; rfl

/-! ### The Step event -/

theorem stepEnabled_iff : stepEnabled s = true ↔ s.ctrl = .running ∧ s.fault = none := by
  simp [stepEnabled, halted]

theorem stepEvent_of_waiting (h : s.ctrl = .awaitingKey) : stepEvent s = .next s :=
  stepEvent_of_disabled s (by simp [stepEnabled, h])

theorem stepEvent_of_halted {r : FaultRecord} (h : s.fault = some r) : stepEvent s = .next s :=
  stepEvent_of_disabled s (by simp [stepEnabled, halted_of_fault h])

theorem stepEvent_of_fetchFault {k : FaultKind} {a : Word} (hc : s.ctrl = .running) (hf : s.fault = none)
    (h : fetchFault paramOddPc s.pc = some (k, a)) : stepEvent s = .next (raise k 0#16 a { s with romOpen := false }) := by
  rw [stepEvent, if_pos (stepEnabled_iff.mpr ⟨hc, hf⟩), engineStepWith, h]

theorem stepEvent_of_unknown {e : DecodeError} (hc : s.ctrl = .running) (hf : s.fault = none)
    (h : fetchFault paramOddPc s.pc = none) (hd : decodeWord (Memory.readWord s.mem s.pc.toNat) = .error e) :
    stepEvent s = .next (raise .decodeError (Memory.readWord s.mem s.pc.toNat) 0#16 { s with romOpen := false }) := by
  rw [decodeWord] at hd
  rw [stepEvent, if_pos (stepEnabled_iff.mpr ⟨hc, hf⟩), engineStepWith, h, hd]

end

/-! ### The checks before the fetch -/

theorem getLsbD_zero_iff (w : Word) : w.getLsbD 0 = true ↔ w.toNat % 2 = 1 := by
  rw [BitVec.getLsbD, Nat.testBit_zero, decide_eq_true_iff]

theorem getLsbD_zero_of_even {w : Word} (h : w.toNat % 2 = 0) : w.getLsbD 0 = false := by
  rw [← Bool.not_eq_true, getLsbD_zero_iff]
  omega

theorem fetchFault_of_high {pc : Word} (h : 4094 < pc.toNat) :
    fetchFault paramOddPc pc = some (.memoryFault, firstMissingAddress pc) := by
  rw [fetchFault, if_pos h, lowestOutOfRange_eq]

theorem fetchFault_of_odd {pc : Word} (h : pc.toNat ≤ 4094) (hodd : pc.toNat % 2 = 1) :
    fetchFault paramOddPc pc = some (.pcMisaligned, 0#16) := by
  rw [fetchFault, if_neg (by omega), if_pos ⟨rfl, (getLsbD_zero_iff pc).mpr hodd⟩]

theorem fetchFault_of_even {pc : Word} (h : pc.toNat ≤ 4094) (heven : pc.toNat % 2 = 0) :
    fetchFault paramOddPc pc = none :=
  fetchFault_of_ok pc h (getLsbD_zero_of_even heven)

/-- A fetch that goes on is at an even address up to 4094. -/
theorem of_fetchFault_eq_none {pc : Word} (h : fetchFault paramOddPc pc = none) :
    pc.toNat ≤ 4094 ∧ pc.getLsbD 0 = false := by
  unfold fetchFault at h
  split_ifs at h with hhigh hodd
  have heven : ¬ pc.getLsbD 0 = true := fun hbit => hodd ⟨rfl, hbit⟩
  exact ⟨by omega, by simpa using heven⟩

/-- R28: the record of a fetch fault is one its kind allows. -/
theorem proper_of_fetchFault {odd : OddPc} {pc a : Word} {k : FaultKind} (h : fetchFault odd pc = some (k, a)) :
    (FaultRecord.mk k pc 0#16 a).Proper := by
  unfold fetchFault at h
  split_ifs at h with hhigh hodd
  · cases h
    exact le_lowestOutOfRange pc
  · cases h
    exact ⟨hodd.2, rfl, rfl⟩

/-- R28: so is that of a word that does not decode. -/
theorem proper_of_unknown {w pc : Word} {e : DecodeError} (h : decodeWord w = .error e) :
    (FaultRecord.mk .decodeError pc w 0#16).Proper := by
  refine ⟨rfl, ?_⟩
  rw [h, eq_unknown_of_decodeWord h]

theorem decodeWord_of_decodeBytes {hi lo : Byte} {i : Instr} {rest : List Byte}
    (h : decodeBytes [hi, lo] = .ok (i, rest)) : decodeWord (wordOfBytes hi lo) = .ok i := by
  cases hd : decodeWord (wordOfBytes hi lo) with
  | ok j =>
    rw [decodeBytes_of_decodeWord hd] at h
    cases h
    rfl
  | error e =>
    rw [decodeBytes, hd] at h
    cases h

/-! ### A Step from the outside -/

/-- Settles O7: either Step is `stepEvent`, whose fetch passes the checks and decodes. -/
theorem stepRunsDecodedInstruction : Obligations.StepRunsDecodedInstruction := by
  intro s i hc hf hpc heven hbytes _
  have hd : decodeWord (Memory.readWord s.mem s.pc.toNat) = .ok i := decodeWord_of_decodeBytes hbytes
  have hbit := getLsbD_zero_of_even heven
  constructor
  · intro hidle
    rw [step_of_idle hidle hf, stepEvent_of_decoded s i hc hf hpc hbit hd]
  · intro rest hstep
    rw [step_of_pending hstep]
    exact stepEvent_of_decoded { s with pending := rest } i hc hf hpc hbit hd

/-- The word placed at `PC` is the word the fetch reads. -/
theorem readWord_withFetchWord (s : State) (w : Nat) (hm : s.mem.wf = true) (hpc : s.pc.toNat ≤ 4094) :
    Memory.readWord (s.withFetchWord 16 w).mem s.pc.toNat =
      wordOfBytes (BitVec.ofNat 8 (w % 2 ^ 16 / 256)) (BitVec.ofNat 8 (w % 2 ^ 16)) := by
  have hlen : s.pc.toNat + (tableBytes 16 w).length ≤ Config.memBytes := by
    simp only [tableBytes, List.length_cons, List.length_nil, Config.memBytes]
    omega
  have hread := read_writeBytes (tableBytes 16 w) s.mem hm s.pc.toNat
  rw [Memory.readWord, State.withFetchWord, hread _ hlen, hread _ hlen]
  simp [tableBytes]

theorem decodeBytes_of_decodeTableWord {nbits w : Nat} {i : Instr} (h : decodeTableWord nbits w = some i) :
    ∃ rest, decodeBytes (tableBytes nbits w) = .ok (i, rest) := by
  unfold decodeTableWord at h
  split at h
  next j rest hj =>
    cases h
    exact ⟨rest, hj⟩
  next => cases h

/-- Settles O8: the fetch reads the two bytes just written, which decode to the instruction. -/
theorem placedWordRunsNext : Obligations.PlacedWordRunsNext := by
  intro s w i hm hpc heven htable
  obtain ⟨rest, hbytes⟩ := decodeBytes_of_decodeTableWord htable
  have hd : decodeWord (Memory.readWord (s.withFetchWord 16 w).mem s.pc.toNat) = .ok i := by
    rw [readWord_withFetchWord s w hm hpc]
    exact decodeWord_of_decodeBytes hbytes
  rw [step_of_idle rfl rfl]
  exact stepEvent_of_decoded (s.withFetchWord 16 w) i rfl rfl hpc (getLsbD_zero_of_even heven) hd

/-- Settles O9: the range of `PC`, its parity and the decoder decide in turn which record the Step latches. -/
theorem fetchFaultsInOrder : Obligations.FetchFaultsInOrder := by
  intro s rest hc hf hstep
  rw [step_of_step hf hstep]
  refine ⟨fun hhigh => ?range, fun hpc hodd => ?parity, fun hpc heven w hw hd => ?decode⟩
  case range => exact stepEvent_of_fetchFault (s := { s with pending := rest }) hc hf (fetchFault_of_high hhigh)
  case parity => exact stepEvent_of_fetchFault (s := { s with pending := rest }) hc hf (fetchFault_of_odd hpc hodd)
  case decode =>
    subst hw
    cases he : decodeWord (Memory.readWord s.mem s.pc.toNat) with
    | ok i => exact absurd he (hd i)
    | error e =>
      exact stepEvent_of_unknown (s := { s with pending := rest }) hc hf (fetchFault_of_even hpc heven) he

/-- Settles O11: a Step in the wait is disabled. -/
theorem waitingCoreTakesNoStep : Obligations.WaitingCoreTakesNoStep := by
  intro s hc hf
  constructor
  · intro hidle
    rw [step_of_idle hidle hf, stepEvent_of_waiting hc]
  · intro rest hstep
    rw [step_of_pending hstep]
    exact stepEvent_of_waiting (s := { s with pending := rest }) hc

end Sys2Proof.Machine
end

section
/-!
The events of the surroundings (spec/60_exceptions.md R172 to R179, spec/70_reset_and_hazards.md R190 to R193): one equation per
event and control state, then what no host event touches.
-/

namespace Sys2Proof.Machine

/-! ### One equation per event -/

section

variable {s : State}

theorem tick_of_halted (h : halted s = true) : tick s = s := by rw [tick, if_pos h]

theorem keyDown_of_halted (k : Nat) (h : halted s = true) : keyDown k s = s := by rw [keyDown, h, Bool.true_or, if_pos rfl]

theorem keyUp_of_halted (k : Nat) (h : halted s = true) : keyUp k s = s := by rw [keyUp, if_pos h]

theorem redrawAck_of_halted (h : halted s = true) : redrawAck s = s := by rw [redrawAck, if_pos h]

theorem tick_of_unfaulted (h : s.fault = none) : tick s = { s with dt := countDown s.dt, st := countDown s.st } := by
  rw [tick, not_halted_of_fault h]
  rfl

theorem keyDown_of_running {k : Nat} (h : s.fault = none) (hc : s.ctrl = .running) (hk : k < 16) :
    keyDown k s = setKey k true s := by
  simp [keyDown, not_halted_of_fault h, keyCodeWellFormed, hk, hc]

theorem keyDown_of_waiting {k : Nat} (h : s.fault = none) (hc : s.ctrl = .awaitingKey) (hk : k < 16) :
    keyDown k s = completeWait k (setKey k true s) := by
  simp [keyDown, not_halted_of_fault h, keyCodeWellFormed, hk, hc]

theorem keyDown_of_gt {k : Nat} (hk : 15 < k) : keyDown k s = s := by
  simp [keyDown, keyCodeWellFormed, show ¬ k < 16 by omega]

theorem keyUp_of_unfaulted (k : Nat) (h : s.fault = none) : keyUp k s = setKey k false s := by
  rw [keyUp, not_halted_of_fault h]
  rfl

theorem setKey_of_gt {k : Nat} (level : Bool) (hk : 15 < k) : setKey k level s = s := by
  rw [setKey, dif_neg (by omega)]

theorem keyUp_of_gt {k : Nat} (hk : 15 < k) : keyUp k s = s := by
  rw [keyUp, setKey_of_gt false hk, ite_self]

theorem redrawAck_of_unfaulted (h : s.fault = none) : redrawAck s = { s with redraw := false } := by
  rw [redrawAck, not_halted_of_fault h]
  rfl

theorem loadRom_of_fits {bytes : List Byte} (hopen : s.romOpen = true) (hf : s.fault = none) (hlen : bytes.length ≤ 3584) :
    loadRom bytes s = .next { s with mem := Memory.writeBytes s.mem Config.romBase bytes, romOpen := false } := by
  simp [loadRom, hopen, not_halted_of_fault hf, romWellFormed, Config.maxRomBytes, hlen, setMem]

theorem loadRom_of_tooLarge {bytes : List Byte} (hopen : s.romOpen = true) (hf : s.fault = none)
    (hlen : 3584 < bytes.length) :
    loadRom bytes s = .next { s with fault := some ⟨.romTooLarge, 0x200#16, 0#16, 0#16⟩, romOpen := false } := by
  simp [loadRom, hopen, not_halted_of_fault hf, romWellFormed, Config.maxRomBytes, hlen.not_ge, latchFault]

theorem loadRom_of_closed (bytes : List Byte) (h : s.romOpen = false) : loadRom bytes s = .refused .loadRomOutOfOrder := by
  rw [loadRom, h]
  rfl

theorem loadRom_of_halted (bytes : List Byte) (h : halted s = true) : loadRom bytes s = .refused .loadRomOutOfOrder := by
  rw [loadRom, h, Bool.not_true, Bool.and_false]
  rfl

end

/-! ### The keys -/

/-- A key event writes `KEYS` alone. -/
theorem setKey_eq (k : Nat) (level : Bool) (s : State) : setKey k level s = { s with keys := (setKey k level s).keys } := by
  unfold setKey
  split <;> rfl

@[simp] theorem getV_setKey (k : Nat) (level : Bool) (s : State) (r : RegIdx) : getV (setKey k level s) r = getV s r := by
  rw [setKey_eq]
  rfl

theorem getElem_keys_setKey {k : Nat} (level : Bool) (s : State) (hk : k < 16) (j : Fin 16) :
    (setKey k level s).keys[j] = if j.val = k then level else s.keys[j] := by
  rw [setKey, dif_pos hk]
  refine (Vector.getElem_set hk j.isLt).trans ?_
  simp only [eq_comm]
  rfl

/-! ### Halted -/

/-- R169, R171, R179: a halted machine takes Step, Tick, KeyDown, KeyUp and RedrawAck without a change. -/
theorem deliver_of_halted {s : State} {r : FaultRecord} (h : s.fault = some r) {e : Event} (hreset : e ≠ .reset)
    (hrom : ∀ bytes, e ≠ .loadRom bytes) : deliver e s = .next s := by
  have hh := halted_of_fault h
  cases e with
  | step => exact stepEvent_of_halted h
  | tick => exact congrArg _ (tick_of_halted hh)
  | keyDown k => exact congrArg _ (keyDown_of_halted k hh)
  | keyUp k => exact congrArg _ (keyUp_of_halted k hh)
  | redrawAck => exact congrArg _ (redrawAck_of_halted hh)
  | reset => exact absurd rfl hreset
  | loadRom bytes => exact absurd rfl (hrom bytes)

/-- Settles O10: no event of a halted machine has an effect but Reset, and LoadRom is refused. -/
theorem haltedCoreIsFrozen : Obligations.HaltedCoreIsFrozen := by
  intro s r hf
  refine ⟨fun hidle => step_of_stopped hidle hf, fun e rest hp hreset hrom => ?_, fun bytes rest hp => ?_⟩
  · rw [step_of_pending hp]
    exact deliver_of_halted (s := { s with pending := rest }) hf hreset hrom
  · rw [step_of_pending hp]
    exact loadRom_of_halted (s := { s with pending := rest }) bytes (halted_of_fault hf)

/-! ### The wait -/

/-- A KeyDown that names no key, and every other event but Reset, keeps a wait. -/
theorem ctrl_of_deliver {s t : State} {e : Event} (hc : s.ctrl = .awaitingKey) (hreset : e ≠ .reset)
    (hkey : ∀ k, k < 16 → e ≠ .keyDown k) (h : deliver e s = .next t) : t.ctrl = .awaitingKey := by
  cases e with
  | step =>
    rw [deliver, stepEvent_of_waiting hc] at h
    cases h
    exact hc
  | tick =>
    cases h
    unfold tick
    split <;> exact hc
  | keyDown k =>
    have hk : 15 < k := by
      by_contra hlt
      exact hkey k (by omega) rfl
    rw [deliver, keyDown_of_gt hk] at h
    cases h
    exact hc
  | keyUp k =>
    cases h
    unfold keyUp
    split
    · exact hc
    · rw [setKey_eq]
      exact hc
  | redrawAck =>
    cases h
    unfold redrawAck
    split <;> exact hc
  | reset => exact absurd rfl hreset
  | loadRom bytes =>
    simp only [deliver, loadRom] at h
    split_ifs at h <;> cases h <;> exact hc

/-- Settles O12: with nothing scheduled the wait stays, and an event that ends it is one of the two. -/
theorem onlyKeyDownOrResetEndsWait : Obligations.OnlyKeyDownOrResetEndsWait := by
  intro s t hc h ht
  cases hp : s.pending with
  | nil =>
    cases hf : s.fault with
    | none =>
      rw [step_of_idle hp hf, stepEvent_of_waiting hc] at h
      cases h
      rw [hc] at ht
      cases ht
    | some r =>
      rw [step_of_stopped hp hf] at h
      cases h
  | cons e rest =>
    rw [step_of_pending hp] at h
    refine ⟨rest, ?_⟩
    by_contra hne
    push Not at hne
    obtain ⟨hreset, hkey⟩ := hne
    have hwait : t.ctrl = .awaitingKey :=
      ctrl_of_deliver (s := { s with pending := rest }) hc (fun he => hreset (by rw [he]))
        (fun k hk he => hkey k hk (by rw [he])) h
    rw [ht] at hwait
    cases hwait

/-! ### Timers, keys and redraw -/

/-- Settles O13: both timers count down, or the machine is halted and keeps them. -/
theorem tickCountsTimersDown : Obligations.TickCountsTimersDown := by
  intro s rest hp
  rw [step_of_pending hp]
  refine ⟨fun hf => ?_, fun r hf => ?_⟩
  · rw [deliver, tick_of_unfaulted (s := { s with pending := rest }) hf]
    exact ⟨_, rfl, toNat_countDown s.dt, toNat_countDown s.st, rfl⟩
  · exact deliver_of_halted (s := { s with pending := rest }) hf (fun h => by cases h) (fun _ h => by cases h)

/-- Settles O14: the wait is completed on the state whose key is set. -/
theorem keyDownCompletesWait : Obligations.KeyDownCompletesWait := by
  intro s k rest hf hc hk hp
  rw [step_of_pending hp, deliver, keyDown_of_waiting (s := { s with pending := rest }) hf hc hk]
  refine ⟨_, rfl, fun r => ?register, fun j => ?key, ?frame⟩
  case register =>
    have hkx : (setKey k true { s with pending := rest }).kx = s.kx := by rw [setKey_eq]
    change getV (setV (setKey k true { s with pending := rest }).kx _ (setKey k true { s with pending := rest })) r = _
    rw [hkx, getV_setV, getV_setKey]
    rfl
  case key => exact getElem_keys_setKey true { s with pending := rest } hk j
  case frame => rw [setKey_eq]; rfl

/-- Settles O15: in range the event is `setKey`, above it nothing. -/
theorem keyEventsChangeOneKey : Obligations.KeyEventsChangeOneKey := by
  intro s k rest hf
  refine ⟨fun hp hk hc => ?down, fun hp hk => ?up, ?above⟩
  case down =>
    rw [step_of_pending hp, deliver, keyDown_of_running (s := { s with pending := rest }) hf hc hk]
    exact ⟨_, rfl, getElem_keys_setKey true _ hk, setKey_eq k true _⟩
  case up =>
    rw [step_of_pending hp, deliver, keyUp_of_unfaulted (s := { s with pending := rest }) k hf]
    exact ⟨_, rfl, getElem_keys_setKey false _ hk, setKey_eq k false _⟩
  case above =>
    rintro (hp | hp) hk
    · rw [step_of_pending hp, deliver, keyDown_of_gt hk]
    · rw [step_of_pending hp, deliver, keyUp_of_gt hk]

/-- Settles O16: the event on the state without it. -/
theorem redrawAckClearsRedraw : Obligations.RedrawAckClearsRedraw := by
  intro s rest hf hp
  rw [step_of_pending hp, deliver, redrawAck_of_unfaulted (s := { s with pending := rest }) hf]

/-! ### What the host events leave -/

/-- What Tick, KeyDown, KeyUp and RedrawAck leave of a state (R10, R170). -/
def HostFrame (s t : State) : Prop :=
  t = { s with v := t.v, dt := t.dt, st := t.st, keys := t.keys, redraw := t.redraw, ctrl := t.ctrl } ∧
    (∀ r, r ≠ s.kx → getV t r = getV s r) ∧ (s.ctrl = .running → t.v = s.v ∧ t.ctrl = .running)

theorem HostFrame.refl (s : State) : HostFrame s s := ⟨rfl, fun _ _ => rfl, fun h => ⟨rfl, h⟩⟩

theorem hostFrame_setKey (k : Nat) (level : Bool) (s : State) : HostFrame s (setKey k level s) := by
  rw [setKey_eq]
  exact ⟨rfl, fun _ _ => rfl, fun h => ⟨rfl, h⟩⟩

theorem hostFrame_tick (s : State) : HostFrame s (tick s) := by
  unfold tick
  split
  · exact .refl s
  · exact ⟨rfl, fun _ _ => rfl, fun h => ⟨rfl, h⟩⟩

/-- The completed wait writes the target of the wait. -/
theorem hostFrame_completeWait (k : Nat) (level : Bool) {s : State} (hc : s.ctrl = .awaitingKey) :
    HostFrame s (completeWait k (setKey k level s)) := by
  rw [setKey_eq]
  refine ⟨rfl, fun r hr => ?_, fun h => ?_⟩
  · exact (getV_setV { s with keys := (setKey k level s).keys } s.kx r _).trans (if_neg hr)
  · rw [hc] at h
    cases h

theorem hostFrame_keyDown (k : Nat) (s : State) : HostFrame s (keyDown k s) := by
  unfold keyDown
  split
  next => exact .refl s
  next =>
    split
    next hc => exact hostFrame_completeWait k true hc
    next => exact hostFrame_setKey k true s

theorem hostFrame_keyUp (k : Nat) (s : State) : HostFrame s (keyUp k s) := by
  unfold keyUp
  split
  · exact .refl s
  · exact hostFrame_setKey k false s

theorem hostFrame_redrawAck (s : State) : HostFrame s (redrawAck s) := by
  unfold redrawAck
  split
  · exact .refl s
  · exact ⟨rfl, fun _ _ => rfl, fun h => ⟨rfl, h⟩⟩

/-- Settles O17: each of the four events leaves the host's frame. -/
theorem hostEventsLeaveProgramState : Obligations.HostEventsLeaveProgramState := by
  intro s e rest hp hstep hreset hrom
  rw [step_of_pending hp]
  cases e with
  | step => exact absurd rfl hstep
  | tick => exact ⟨_, rfl, hostFrame_tick { s with pending := rest }⟩
  | keyDown k => exact ⟨_, rfl, hostFrame_keyDown k { s with pending := rest }⟩
  | keyUp k => exact ⟨_, rfl, hostFrame_keyUp k { s with pending := rest }⟩
  | redrawAck => exact ⟨_, rfl, hostFrame_redrawAck { s with pending := rest }⟩
  | reset => exact absurd rfl hreset
  | loadRom bytes => exact absurd rfl (hrom bytes)

/-! ### Reset and LoadRom -/

/-- R30, R41: above the font, memory that lists nothing reads 0. -/
theorem unlisted_of_ge {a : Nat} (h : 80 ≤ a) : Memory.unlisted a = 0#8 := by
  have hlen : paramFont.toList.length = 80 := paramFont.length_toList
  rw [Memory.unlisted, Memory.resetByte, List.getD_eq_default _ _ (by omega)]

/-- Settles O18: the font by evaluation, the zeros above it by `unlisted_of_ge`, the registers and keys by the vector of one
value. -/
theorem resetStateValues : Obligations.ResetStateValues := by
  refine ⟨rfl, rfl, rfl, rfl, rfl, rfl, rfl, rfl, rfl, rfl, fun r => ?_, fun k => ?_, fun k => ?_, by decide,
    fun a ha => unlisted_of_ge ha⟩
  · exact Vector.getElem_replicate r.isLt
  · exact Vector.getElem_replicate k.isLt
  · exact Vector.getElem_replicate k.isLt

/-- Settles O19: Reset at the model's parameters, which keeps the schedule and the draw count. -/
theorem resetEventGivesFreshState : Obligations.ResetEventGivesFreshState := by
  intro s rest hp
  rw [step_of_pending hp, deliver, resetEvent_eq]

/-- Settles O20: the image is one `writeBytes` from 0x200, which ends inside memory. -/
theorem loadRomCopiesImage : Obligations.LoadRomCopiesImage := by
  intro s bytes rest hm hopen hf hlen hp
  rw [step_of_pending hp, deliver, loadRom_of_fits (s := { s with pending := rest }) hopen hf hlen]
  refine ⟨_, rfl, fun a => ?_, rfl⟩
  have hfits : Config.romBase + bytes.length ≤ Config.memBytes := by
    simp only [Config.romBase, Config.memBytes]
    omega
  exact read_writeBytes bytes s.mem hm Config.romBase a hfits

/-- Settles O21: the length decides the fault, the window the refusal. -/
theorem loadRomFailures : Obligations.LoadRomFailures := by
  intro s bytes rest hp
  rw [step_of_pending hp, deliver]
  exact ⟨fun hopen hf hlen => loadRom_of_tooLarge (s := { s with pending := rest }) hopen hf hlen,
    fun hclosed => loadRom_of_closed (s := { s with pending := rest }) bytes hclosed⟩

end Sys2Proof.Machine
end

section
/-!
The invariant of the machine (spec/10_state.md R17, R18, R24, R34): it holds after Reset, and each event keeps it. An instruction
is met by its two outcomes: a completed one keeps memory canonical, bounds `PC` and the return addresses, a raise latches a
proper record.
-/

namespace Sys2Proof.Machine

/-! ### The bounds of an instruction that completes -/

section

variable {s : State}

/-- The two stores keep the canonical form of memory; no other instruction touches it. -/
theorem wf_completed_mem (i : Instr) (h : s.mem.wf = true) : (completed i s).mem.wf = true := by
  by_cases hi : storeWidth i = 0
  · rw [completed_mem_of_storeWidth hi]
    exact h
  · cases i
    case storeBcd x => exact wf_writeBytes _ s.mem h _
    case storeRegistersInMemory x => exact wf_writeBytes _ s.mem h _
    all_goals exact absurd rfl hi

theorem toNat_zext8 (b : Byte) : (zext8 b).toNat = b.toNat := BitVec.toNat_setWidth_of_le (by decide)

/-- R86: the sum of a byte and an address fits into 16 bits. -/
theorem toNat_zext8_add_zext12 (b : Byte) (nnn : Addr12) : (zext8 b + zext12 nnn).toNat = b.toNat + nnn.toNat := by
  have hb : b.toNat < 256 := b.isLt
  have hn : nnn.toNat < 4096 := nnn.isLt
  rw [BitVec.toNat_add, toNat_zext8, toNat_zext12, Nat.mod_eq_of_lt (by omega)]

theorem toNat_topEntry_le (h : ∀ k : Fin 16, s.stack[k].toNat ≤ 4096) : (topEntry s).toNat ≤ 4096 := by
  by_cases hk : s.sp.val - 1 < 16
  · rw [topEntry, Vector.getElem?_eq_getElem hk]
    exact h ⟨s.sp.val - 1, hk⟩
  · rw [topEntry, Vector.getElem?_eq_none (by omega)]
    decide

/-- R17: from an address the fetch accepts, the largest target is 255 + 4095. -/
theorem toNat_completed_pc_le (i : Instr) (hpc : s.pc.toNat ≤ 4094) (hstack : ∀ k : Fin 16, s.stack[k].toNat ≤ 4096) :
    (completed i s).pc.toNat ≤ 4350 := by
  have target (nnn : Addr12) : (zext12 nnn).toNat ≤ 4350 := by
    have hn : nnn.toNat < 4096 := nnn.isLt
    rw [toNat_zext12]
    omega
  cases hi : isTransfer i with
  | false =>
    obtain h | ⟨-, h⟩ := completed_pc s hi <;> rw [h] <;> bv_omega
  | true =>
    cases i
    case jump nnn | subroutineCall nnn => exact target nnn
    case subroutineReturn => exact (toNat_topEntry_le hstack).trans (by decide)
    case jumpWithOffset nnn =>
      have hb : (getV s 0#4).toNat < 256 := (getV s 0#4).isLt
      have hn : nnn.toNat < 4096 := nnn.isLt
      change (zext8 (getV s 0#4) + zext12 nnn).toNat ≤ 4350
      rw [toNat_zext8_add_zext12]
      omega
    all_goals cases hi

theorem getElem_stack_pushed (w : Word) (s : State) (k : Fin 16) :
    (pushed w s).stack[k] = if k.val = s.sp.val then w else s.stack[k] := by
  refine (Vector.getElem_setIfInBounds k.isLt).trans ?_
  simp only [eq_comm]
  rfl

/-- R17: what a call pushes is the address after the call. -/
theorem toNat_completed_stack_le (i : Instr) (hpc : s.pc.toNat ≤ 4094) (hstack : ∀ k : Fin 16, s.stack[k].toNat ≤ 4096)
    (k : Fin 16) : (completed i s).stack[k].toNat ≤ 4096 := by
  cases i
  case subroutineCall nnn =>
    change (pushed (s.pc + 2#16) s).stack[k].toNat ≤ 4096
    rw [getElem_stack_pushed]
    split
    · bv_omega
    · exact hstack k
  all_goals exact hstack k

end

/-! ### Instructions -/

section

variable {s : State}

theorem Invariant.completed (h : Invariant s) (hf : s.fault = none) (hrom : s.romOpen = false) (hpc : s.pc.toNat ≤ 4094)
    (i : Instr) : Invariant (completed i s) where
  memCanonical := wf_completed_mem i h.memCanonical
  pcBounded := toNat_completed_pc_le i hpc h.returnsBounded
  returnsBounded := toNat_completed_stack_le i hpc h.returnsBounded
  waitUnfaulted _ := by rw [completed_fault, hf]
  romUnstarted ho := by rw [completed_romOpen, hrom] at ho; cases ho
  recordProper r hr := by rw [completed_fault, hf] at hr; cases hr

theorem Invariant.raise (h : Invariant s) (hc : s.ctrl = .running) (hrom : s.romOpen = false) {k : FaultKind} {w a : Word}
    (hproper : (FaultRecord.mk k s.pc w a).Proper) : Invariant (raise k w a s) where
  memCanonical := h.memCanonical
  pcBounded := h.pcBounded
  returnsBounded := h.returnsBounded
  waitUnfaulted hw := by rw [raise_ctrl, hc] at hw; cases hw
  romUnstarted ho := by rw [raise_romOpen, hrom] at ho; cases ho
  recordProper r hr := by cases hr; exact hproper

theorem Invariant.exec (h : Invariant s) (hc : s.ctrl = .running) (hf : s.fault = none) (hrom : s.romOpen = false)
    (hpc : s.pc.toNat ≤ 4094) {i : Instr} {t : State} (ht : exec i s = .next t) : Invariant t := by
  obtain rfl | ⟨-, k, a, rfl, hproper⟩ := eq_completed_or_raise ht
  · exact h.completed hf hrom hpc i
  · exact h.raise hc hrom hproper

/-! ### Events -/

/-- The load window may close at any time. -/
theorem Invariant.closeRom (h : Invariant s) : Invariant { s with romOpen := false } :=
  { h with romUnstarted := fun ho => by cases ho }

theorem Invariant.withPending (h : Invariant s) (es : List Event) : Invariant { s with pending := es } := { h with }

theorem Invariant.stepEvent (h : Invariant s) {t : State} (ht : stepEvent s = .next t) : Invariant t := by
  cases hen : stepEnabled s with
  | false =>
    rw [stepEvent_of_disabled s hen] at ht
    cases ht
    exact h
  | true =>
    obtain ⟨hc, hf⟩ := stepEnabled_iff.mp hen
    cases hff : fetchFault paramOddPc s.pc with
    | some ka =>
      obtain ⟨k, a⟩ := ka
      rw [stepEvent_of_fetchFault hc hf hff] at ht
      cases ht
      exact h.closeRom.raise hc rfl (proper_of_fetchFault hff)
    | none =>
      cases hd : decodeWord (Memory.readWord s.mem s.pc.toNat) with
      | error e =>
        rw [stepEvent_of_unknown hc hf hff hd] at ht
        cases ht
        exact h.closeRom.raise hc rfl (proper_of_unknown hd)
      | ok i =>
        obtain ⟨hpc, hbit⟩ := of_fetchFault_eq_none hff
        rw [stepEvent_of_decoded s i hc hf hpc hbit hd] at ht
        exact h.closeRom.exec hc hf rfl hpc ht

/-- What a host event leaves keeps the invariant: it can only end a wait. -/
theorem Invariant.of_hostFrame (h : Invariant s) {t : State} (ht : HostFrame s t) : Invariant t := by
  obtain ⟨heq, -, hrun⟩ := ht
  have hwait : t.ctrl = .awaitingKey → s.ctrl = .awaitingKey := by
    intro hw
    cases hc : s.ctrl with
    | awaitingKey => rfl
    | running =>
      rw [(hrun hc).2] at hw
      cases hw
  rw [heq]
  exact
    { memCanonical := h.memCanonical
      pcBounded := h.pcBounded
      returnsBounded := h.returnsBounded
      waitUnfaulted := fun hw => h.waitUnfaulted (hwait hw)
      romUnstarted := fun ho => by
        obtain ⟨hf, hc, hpc⟩ := h.romUnstarted ho
        exact ⟨hf, (hrun hc).2, hpc⟩
      recordProper := h.recordProper }

/-- A legal LoadRom finds a running machine, so the record it may latch is the only change the invariant sees. -/
theorem Invariant.loadRom (h : Invariant s) {bytes : List Byte} {t : State} (ht : loadRom bytes s = .next t) :
    Invariant t := by
  cases hopen : s.romOpen with
  | false =>
    rw [loadRom_of_closed bytes hopen] at ht
    cases ht
  | true =>
    obtain ⟨hf, hc, -⟩ := h.romUnstarted hopen
    by_cases hlen : bytes.length ≤ 3584
    · rw [loadRom_of_fits hopen hf hlen] at ht
      cases ht
      exact { h.closeRom with memCanonical := wf_writeBytes bytes s.mem h.memCanonical _ }
    · rw [loadRom_of_tooLarge hopen hf (by omega)] at ht
      cases ht
      exact
        { h.closeRom with
          waitUnfaulted := fun hw => by rw [hc] at hw; cases hw
          romUnstarted := fun ho => by cases ho
          recordProper := fun r hr => by cases hr; exact ⟨rfl, rfl, rfl⟩ }

end

/-- Settles O59: every field is at its reset value. -/
theorem resetMeetsInvariant : Obligations.ResetMeetsInvariant where
  memCanonical := wf_reset
  pcBounded := by decide
  returnsBounded k := by
    rw [show State.reset.stack[k] = 0#16 from Vector.getElem_replicate k.isLt]
    decide
  waitUnfaulted _ := rfl
  romUnstarted _ := ⟨rfl, rfl, rfl⟩
  recordProper r hr := by cases hr

theorem Invariant.resetEvent (s : State) : Invariant (resetEvent s) := by
  have h : Invariant State.reset := resetMeetsInvariant
  rw [resetEvent_eq]
  exact { h with }

theorem Invariant.deliver {s t : State} {e : Event} (h : Invariant s) (ht : deliver e s = .next t) : Invariant t := by
  cases e with
  | step => exact h.stepEvent ht
  | tick => cases ht; exact h.of_hostFrame (hostFrame_tick s)
  | keyDown k => cases ht; exact h.of_hostFrame (hostFrame_keyDown k s)
  | keyUp k => cases ht; exact h.of_hostFrame (hostFrame_keyUp k s)
  | redrawAck => cases ht; exact h.of_hostFrame (hostFrame_redrawAck s)
  | reset =>
    obtain rfl := Host.Outcome.next.inj ht
    exact .resetEvent s
  | loadRom bytes => exact h.loadRom ht

/-- Settles O58: the next event is one of the seven, or the Step taken when none is scheduled, and each keeps the invariant. -/
theorem stepKeepsInvariant : Obligations.StepKeepsInvariant := by
  intro s t h ht
  cases hp : s.pending with
  | cons e rest =>
    rw [step_of_pending hp] at ht
    exact (h.withPending rest).deliver ht
  | nil =>
    cases hf : s.fault with
    | none =>
      rw [step_of_idle hp hf] at ht
      exact h.stepEvent ht
    | some r =>
      rw [step_of_stopped hp hf] at ht
      cases ht

end Sys2Proof.Machine
end

section
/-!
The words of the forms as numbers (spec/30_encoding.md R62, R63): what a fault record of an instruction holds.
-/

namespace Sys2Proof

/-- The digits of an appended word: the high part times the size of the low part, plus the low part. -/
theorem toNat_append_eq {a b : Nat} (x : BitVec a) (y : BitVec b) : (x ++ y).toNat = x.toNat * 2 ^ b + y.toNat := by
  rw [BitVec.toNat_append, ← Nat.shiftLeft_add_eq_or_of_lt y.isLt, Nat.shiftLeft_eq]

theorem formNnn_eq_ofNat (op : Nibble) (nnn : Addr12) {base : Nat} (h : op.toNat * 4096 = base) :
    formNnn op nnn = BitVec.ofNat 16 (base + nnn.toNat) := by
  have hn : (formNnn op nnn).toNat = base + nnn.toNat := by
    rw [formNnn, toNat_append_eq, ← h]
    ring
  rw [← hn, BitVec.ofNat_toNat, BitVec.setWidth_eq]

theorem formXnn_eq_ofNat (op : Nibble) (x : RegIdx) (nn : Byte) {base : Nat} (h : op.toNat * 4096 + nn.toNat = base) :
    formXnn op x nn = BitVec.ofNat 16 (base + 256 * x.toNat) := by
  have hn : (formXnn op x nn).toNat = base + 256 * x.toNat := by
    rw [formXnn, toNat_append_eq, toNat_append_eq, ← h]
    ring
  rw [← hn, BitVec.ofNat_toNat, BitVec.setWidth_eq]

theorem formXyn_eq_ofNat (op : Nibble) (x y : RegIdx) (n : Nibble) {base : Nat} (h : op.toNat * 4096 = base) :
    formXyn op x y n = BitVec.ofNat 16 (base + 256 * x.toNat + 16 * y.toNat + n.toNat) := by
  have hn : (formXyn op x y n).toNat = base + 256 * x.toNat + 16 * y.toNat + n.toNat := by
    rw [formXyn, toNat_append_eq, toNat_append_eq, toNat_append_eq, ← h]
    ring
  rw [← hn, BitVec.ofNat_toNat, BitVec.setWidth_eq]

end Sys2Proof
end

section
/-!
Control, jumps and the stack (spec/40_control.md R80 to R86).
-/

namespace Sys2Proof.Machine

/-! ### What each instruction answers -/

theorem exec_nop (s : State) : exec .nop s = .next (advance s) := rfl

theorem exec_clearDisplay (s : State) : exec .clearDisplay s = .next (advance (showFrame 0#2048 s)) := rfl

theorem exec_jump (nnn : Addr12) (s : State) : exec (.jump nnn) s = .next (setPc (zext12 nnn) s) := rfl

theorem exec_jumpWithOffset (nnn : Addr12) (s : State) :
    exec (.jumpWithOffset nnn) s = .next (setPc (zext8 (getV s 0#4) + zext12 nnn) s) := rfl

/-- A call with a free entry pushes and jumps. -/
theorem exec_subroutineCall_of_lt (nnn : Addr12) {s : State} (h : s.sp.val < 16) :
    exec (.subroutineCall nnn) s = .next (setPc (zext12 nnn) (pushed (s.pc + 2#16) s)) := by
  rw [exec, execSubroutineCall, pushStack_eq_pushed _ s h]

theorem exec_subroutineCall_of_full (nnn : Addr12) {s : State} (h : s.sp.val = 16) :
    exec (.subroutineCall nnn) s = .next (raise .stackOverflow (encodeWord (.subroutineCall nnn)) 0#16 s) := by
  rw [exec, execSubroutineCall, pushStack_of_full _ s h]

/-- A return with an entry in use pops it into `PC`. -/
theorem exec_subroutineReturn_of_pos {s : State} (h : 0 < s.sp.val) :
    exec .subroutineReturn s = .next (setPc (topEntry s) (popped s)) := by
  rw [exec, execSubroutineReturn, popStack_eq_popped s h]

theorem exec_subroutineReturn_of_empty {s : State} (h : s.sp.val = 0) :
    exec .subroutineReturn s = .next (raise .stackUnderflow (encodeWord .subroutineReturn) 0#16 s) := by
  rw [exec, execSubroutineReturn, popStack_of_empty s h]

/-! ### The stack pointer and the top entry -/

section

variable {s : State} (w : Word)

theorem val_sp_pushed (h : s.sp.val < 16) : (pushed w s).sp.val = s.sp.val + 1 := Nat.mod_eq_of_lt (by omega)

theorem val_sp_popped (s : State) : (popped s).sp.val = s.sp.val - 1 := Nat.mod_eq_of_lt (by omega)

theorem topEntry_of_sp {k : Fin 16} (h : s.sp.val = k.val + 1) : topEntry s = s.stack[k] := by
  have hk : s.sp.val - 1 = k.val := by omega
  rw [topEntry, hk, Vector.getElem?_eq_getElem k.isLt]
  rfl

/-- The entry a push leaves on top is the word pushed. -/
theorem topEntry_pushed (h : s.sp.val < 16) : topEntry (pushed w s) = w := by
  rw [topEntry_of_sp (k := ⟨s.sp.val, h⟩) (val_sp_pushed w h), getElem_stack_pushed, if_pos rfl]

end

/-- Settles O22: a Nop is the advance. -/
theorem nopAdvances : Obligations.NopAdvances := exec_nop

/-- Settles O23: the frame shown is the zero vector. -/
theorem clearDisplayBlanksFrame : Obligations.ClearDisplayBlanksFrame :=
  fun s => ⟨_, exec_clearDisplay s, fun _ => BitVec.getLsbD_zero, rfl⟩

/-- Settles O24: both targets fit into the 16 bits of `PC`. -/
theorem jumpsLoadPc : Obligations.JumpsLoadPc :=
  fun nnn s => ⟨⟨_, exec_jump nnn s, toNat_zext12 nnn, rfl⟩,
    ⟨_, exec_jumpWithOffset nnn s, toNat_zext8_add_zext12 (getV s 0#4) nnn, rfl⟩⟩

/-- Settles O25: the push where there is room, the raise where there is none. -/
theorem callPushesReturnAddress : Obligations.CallPushesReturnAddress := by
  intro nnn s
  refine ⟨fun h => ⟨_, exec_subroutineCall_of_lt nnn h, val_sp_pushed (s.pc + 2#16) h,
    getElem_stack_pushed (s.pc + 2#16) s, toNat_zext12 nnn, rfl⟩, fun h => ?full⟩
  case full =>
    rw [exec_subroutineCall_of_full nnn h, encodeWord, formNnn_eq_ofNat _ _ rfl]
    rfl

/-- Settles O26: the pop where there is an entry, the raise where there is none. -/
theorem returnPopsAddress : Obligations.ReturnPopsAddress := by
  intro s
  refine ⟨fun h => ⟨_, exec_subroutineReturn_of_pos h, ?sp, fun k hk => topEntry_of_sp hk, rfl⟩,
    fun h => exec_subroutineReturn_of_empty h⟩
  case sp =>
    have hsp := val_sp_popped s
    rw [setPc_sp]
    omega

/-- Settles O27: the return finds on top what the call pushed, and takes `SP` back. -/
theorem callThenReturnComesBack : Obligations.CallThenReturnComesBack := by
  intro nnn s h
  have hsp := val_sp_pushed (s.pc + 2#16) h
  refine ⟨_, _, exec_subroutineCall_of_lt nnn h, toNat_zext12 nnn,
    exec_subroutineReturn_of_pos (s := setPc (zext12 nnn) (pushed (s.pc + 2#16) s)) ?used, ?frame⟩
  case used =>
    rw [setPc_sp]
    omega
  case frame =>
    have htop : topEntry (setPc (zext12 nnn) (pushed (s.pc + 2#16) s)) = s.pc + 2#16 := topEntry_pushed _ h
    have hback : (popped (setPc (zext12 nnn) (pushed (s.pc + 2#16) s))).sp = s.sp := by
      apply Fin.ext
      rw [val_sp_popped, setPc_sp, hsp, Nat.add_sub_cancel]
    rw [htop, ← hback]
    rfl

end Sys2Proof.Machine
end

section
/-!
The key skips (spec/41_skip.md R95, R96), for every value of `KEY_INDEX`: the level read decides the skip, or there is none.
-/

namespace Sys2Proof.Machine

theorem exec_skipIfKeyPressed (x : RegIdx) (s : State) :
    exec (.skipIfKeyPressed x) s = .next (keySkip paramKeyIndex true x (encodeWord (.skipIfKeyPressed x)) s) := rfl

theorem exec_skipIfKeyNotPressed (x : RegIdx) (s : State) :
    exec (.skipIfKeyNotPressed x) s = .next (keySkip paramKeyIndex false x (encodeWord (.skipIfKeyNotPressed x)) s) := rfl

section

variable {p : KeyIndexPolicy} {x : RegIdx} {s : State}

theorem keySkip_of_level {level : Bool} (want : Bool) (w : Word) (h : keyOperand p s (getV s x) = some level) :
    keySkip p want x w s = { s with pc := s.pc + (if level = want then 4#16 else 2#16) } := by
  rw [keySkip, h]
  exact skipIf_eq_of_iff s beq_iff_eq

theorem keySkip_of_none (want : Bool) (w : Word) (h : keyOperand p s (getV s x) = none) :
    keySkip p want x w s = { s with fault := some ⟨.keyIndexFault, s.pc, w, 0#16⟩ } := by
  rw [keySkip, h]
  rfl

/-- A key number up to 15 selects its key. -/
theorem keyOperand_of_eq {k : Fin 16} (h : (getV s x).toNat = k.val) : keyOperand p s (getV s x) = some s.keys[k] := by
  rw [keyOperand_of_lt p s _ (by omega)]
  simp only [h]
  rfl

/-- Under `mask` a key number above 15 selects the key of its low nibble. -/
theorem keyOperand_mask {k : Fin 16} (h : 15 < (getV s x).toNat) (hk : (getV s x).toNat % 16 = k.val) :
    keyOperand .mask s (getV s x) = some s.keys[k] := by
  have hnibble : ((getV s x).setWidth 4).toNat = k.val := by rw [BitVec.toNat_setWidth, hk]
  rw [keyOperand_of_ge .mask s _ h]
  simp only [keyLevel, hnibble]
  rfl

theorem keyOperand_notPressed (h : 15 < (getV s x).toNat) : keyOperand .notPressed s (getV s x) = some false :=
  keyOperand_of_ge .notPressed s _ h

end

/-- Settles O30: both are `keySkip` with the level of the key. -/
theorem keySkipsFollowKeyLevel : Obligations.KeySkipsFollowKeyLevel := by
  intro x s k hk
  rw [exec_skipIfKeyPressed, exec_skipIfKeyNotPressed, keySkip_of_level _ _ (keyOperand_of_eq hk),
    keySkip_of_level _ _ (keyOperand_of_eq hk)]
  exact ⟨rfl, rfl⟩

/-- Settles O31: the default has no key to read; under the other values the level is that of the low nibble's key, or false. -/
theorem keySkipsAboveFifteen : Obligations.KeySkipsAboveFifteen := by
  intro x s h
  refine ⟨?pressed, ?released, fun want w => ⟨?none, fun k hk => keySkip_of_level want w (keyOperand_mask h hk)⟩⟩
  case pressed =>
    rw [exec_skipIfKeyPressed, keySkip_of_none _ _ (keyOperand_fault s h), encodeWord, formXnn_eq_ofNat _ _ _ rfl]
    rfl
  case released =>
    rw [exec_skipIfKeyNotPressed, keySkip_of_none _ _ (keyOperand_fault s h), encodeWord, formXnn_eq_ofNat _ _ _ rfl]
    rfl
  case none =>
    rw [keySkip_of_level want w (keyOperand_notPressed h)]
    simp only [eq_comm]

end Sys2Proof.Machine
end

section
/-!
The flag-writing instructions (spec/43_arith_shift.md R110 to R115): each leaves `flagged`, whose result and flag are read back
once for the five of them.
-/

namespace Sys2Proof.Machine

/-! ### The flags as numbers -/

theorem toNat_flagByte {c : Bool} {p : Prop} [Decidable p] (h : c = true ↔ p) :
    (flagByte c).toNat = if p then 1 else 0 := by
  rw [flagByte, apply_ite BitVec.toNat]
  simp only [h]
  rfl

theorem toNat_flagByte_carryOut (a b : Byte) :
    (flagByte (carryOut a b)).toNat = if 255 < a.toNat + b.toNat then 1 else 0 := toNat_flagByte decide_eq_true_iff

theorem toNat_flagByte_noBorrow (a b : Byte) : (flagByte (noBorrow a b)).toNat = if b.toNat ≤ a.toNat then 1 else 0 :=
  toNat_flagByte decide_eq_true_iff

theorem toNat_flagByte_bitOutRight (a : Byte) : (flagByte (bitOutRight a)).toNat = a.toNat % 2 := by
  rw [toNat_flagByte (p := a.toNat % 2 = 1)]
  · split <;> omega
  · rw [bitOutRight, BitVec.getLsbD, Nat.testBit_zero, decide_eq_true_iff]

theorem toNat_flagByte_bitOutLeft (a : Byte) : (flagByte (bitOutLeft a)).toNat = a.toNat / 128 := by
  have ha : a.toNat < 256 := a.isLt
  rw [toNat_flagByte (p := a.toNat / 128 % 2 = 1)]
  · split <;> omega
  · rw [bitOutLeft, BitVec.getLsbD, Nat.testBit_eq_decide_div_mod_eq, decide_eq_true_iff]

/-! ### Reading the result and the flag -/

section

variable (x : RegIdx) (b : Byte) (f : Bool) (s : State)

theorem getV_flagged_vf : getV (flagged x b f s) vfIdx = flagByte f := by
  rw [flagged, getV_advance, getV_setV, if_pos rfl]

variable {x} in
theorem getV_flagged_self (h : x ≠ vfIdx) : getV (flagged x b f s) x = b := by
  rw [flagged, getV_advance, getV_setV, if_neg h, getV_setV, if_pos rfl]

theorem flagged_eq : flagged x b f s = { s with v := (flagged x b f s).v, pc := s.pc + 2#16 } := rfl

end

/-- An instruction that leaves `flagged`, with its result and flag as numbers (R110). -/
theorem exists_next_of_flagged {i : Instr} {x : RegIdx} {b : Byte} {f : Bool} {s : State} {result flag : Nat}
    (h : exec i s = .next (flagged x b f s)) (hb : b.toNat = result) (hf : (flagByte f).toNat = flag) :
    ∃ t, exec i s = .next t ∧ (x ≠ 15#4 → (getV t x).toNat = result) ∧ (getV t 15#4).toNat = flag ∧
      (∀ r, r ≠ x → r ≠ 15#4 → getV t r = getV s r) ∧ t = { s with v := t.v, pc := s.pc + 2#16 } := by
  refine ⟨_, h, fun hx => ?_, ?_, fun r hr hvf => getV_flagged_of_ne b f hr hvf, flagged_eq x b f s⟩
  · rw [getV_flagged_self b f s hx, hb]
  · rw [getV_flagged_vf, hf]

/-! ### The five instructions -/

theorem exec_addRegisters (x y : RegIdx) (s : State) :
    exec (.addRegisters x y) s = .next (flagged x (sumByte (getV s x) (getV s y)) (carryOut (getV s x) (getV s y)) s) :=
  finishFlagged_flagLast _ _ _ s

theorem exec_subtract (x y : RegIdx) (s : State) :
    exec (.subtract x y) s = .next (flagged x (diffByte (getV s x) (getV s y)) (noBorrow (getV s x) (getV s y)) s) :=
  finishFlagged_flagLast _ _ _ s

theorem exec_reverseSubtract (x y : RegIdx) (s : State) :
    exec (.reverseSubtract x y) s =
      .next (flagged x (diffByte (getV s y) (getV s x)) (noBorrow (getV s y) (getV s x)) s) :=
  finishFlagged_flagLast _ _ _ s

theorem exec_shiftRight (x y : RegIdx) (s : State) :
    exec (.shiftRight x y) s = .next (flagged x (halfByte (getV s x)) (bitOutRight (getV s x)) s) :=
  finishFlagged_flagLast _ _ _ s

theorem exec_shiftLeft (x y : RegIdx) (s : State) :
    exec (.shiftLeft x y) s = .next (flagged x (doubleByte (getV s x)) (bitOutLeft (getV s x)) s) :=
  finishFlagged_flagLast _ _ _ s

/-- Settles O34: the sum and its carry. -/
theorem addSetsCarry : Obligations.AddSetsCarry :=
  fun x y s => exists_next_of_flagged (exec_addRegisters x y s) (toNat_sumByte _ _) (toNat_flagByte_carryOut _ _)

/-- Settles O35: the two differences, each with its borrow. -/
theorem subtractionsSetNoBorrow : Obligations.SubtractionsSetNoBorrow :=
  fun x y s =>
    ⟨exists_next_of_flagged (exec_subtract x y s) (toNat_diffByte _ _) (toNat_flagByte_noBorrow _ _),
      exists_next_of_flagged (exec_reverseSubtract x y s) (toNat_diffByte _ _) (toNat_flagByte_noBorrow _ _)⟩

/-- Settles O36: the half with bit 0, the double with bit 7. -/
theorem shiftsCaptureBitOut : Obligations.ShiftsCaptureBitOut :=
  fun x y s =>
    ⟨exists_next_of_flagged (exec_shiftRight x y s) (toNat_halfByte _) (toNat_flagByte_bitOutRight _),
      exists_next_of_flagged (exec_shiftLeft x y s) (toNat_doubleByte _) (toNat_flagByte_bitOutLeft _)⟩

end Sys2Proof.Machine
end

section
/-!
AddToIndex, Random and the issue of a key wait (spec/44_index_random.md R121 to R123, spec/46_timer_key.md R145).
-/

namespace Sys2Proof.Machine

theorem exec_addToIndex (x : RegIdx) (s : State) :
    exec (.addToIndex x) s = .next (advance (setIndex (BitVec.ofNat 16 (s.index.toNat + (getV s x).toNat)) s)) := rfl

theorem exec_random (x : RegIdx) (nn : Byte) (s : State) :
    exec (.random x nn) s = .next (advance (countDraw (setV x (Config.randomByte s.draws &&& nn) s))) := rfl

theorem exec_storeNextKeypress (x : RegIdx) (s : State) :
    exec (.storeNextKeypress x) s = .next (advance (awaitKey x s)) := rfl

/-- Settles O38: the word of `I` keeps the sum modulo its size. -/
theorem addToIndexWraps : Obligations.AddToIndexWraps := by
  intro x s
  refine ⟨_, exec_addToIndex x s, ?_, advance_setIndex_eq _ s⟩
  rw [advance_setIndex_index, BitVec.toNat_ofNat]

/-- Settles O39: one register write of the masked draw; a bit that `nn` lacks is 0 in it. -/
theorem randomMasksFreeByte : Obligations.RandomMasksFreeByte := by
  intro x nn s
  have hv (r : RegIdx) : getV (advance (countDraw (setV x (Config.randomByte s.draws &&& nn) s))) r =
      if r = x then Config.randomByte s.draws &&& nn else getV s r := by
    rw [getV_advance, getV_countDraw, getV_setV]
  refine ⟨_, exec_random x nn s, ?_, fun k hk => ?_, fun r hr => ?_, rfl⟩
  · rw [hv, if_pos rfl]
  · rw [hv, if_pos rfl, BitVec.getLsbD_and, hk, Bool.and_false]
  · rw [hv, if_neg hr]

/-- Settles O41: the wait is issued and `PC` advanced. -/
theorem keyWaitIssues : Obligations.KeyWaitIssues := exec_storeNextKeypress

end Sys2Proof.Machine
end

section
/-!
BCD and the block transfers (spec/47_bcd_block.md R150 to R153), the frame of memory (spec/20_memory.md R55) and the range check
the accesses through `I` share (R48).
-/

namespace Sys2Proof.Machine

/-! ### Memory outside what is written -/

/-- A list of bytes is written at its own addresses only, wherever it ends. -/
theorem read_writeBytes_of_outside (bs : List Byte) {m : Memory} (hm : m.wf = true) {a c : Nat}
    (h : ¬ (a ≤ c ∧ c < a + bs.length)) : Memory.read (Memory.writeBytes m a bs) c = Memory.read m c := by
  induction bs generalizing a with
  | nil => rfl
  | cons b bs ih =>
    rw [List.length_cons] at h
    rw [Memory.writeBytes, read_write _ (wf_writeBytes bs m hm (a + 1)), if_neg (by omega), ih (by omega)]

@[simp] theorem length_bcdDigits (b : Byte) : (bcdDigits b).length = 3 := rfl

/-- The bytes an instruction that completes leaves alone. -/
theorem read_completed_mem {i : Instr} {s : State} (hm : s.mem.wf = true) {a : Nat}
    (h : ¬ (s.index.toNat ≤ a ∧ a < s.index.toNat + storeWidth i)) :
    Memory.read (completed i s).mem a = Memory.read s.mem a := by
  by_cases hi : storeWidth i = 0
  · rw [completed_mem_of_storeWidth hi]
  · cases i
    case storeBcd x => exact read_writeBytes_of_outside _ hm (by rwa [length_bcdDigits])
    case storeRegistersInMemory x => exact read_writeBytes_of_outside _ hm (by rwa [length_regList])
    all_goals exact absurd rfl hi

/-- Settles O53: the two stores write their block, the other instructions and a fault nothing. -/
theorem memoryFrame : Obligations.MemoryFrame := by
  intro i s t hm h
  obtain rfl | ⟨-, k, a, rfl, -⟩ := eq_completed_or_raise h
  · exact ⟨fun c hc => read_completed_mem hm hc, completed_mem_of_storeWidth⟩
  · exact ⟨fun _ _ => rfl, fun _ => rfl⟩

/-! ### The range check -/

section

variable {s : State}

theorem exec_storeBcd (x : RegIdx) (s : State) :
    exec (.storeBcd x) s =
      .next (withinMemory 2 (encodeWord (.storeBcd x)) s
        (advance (setMem (Memory.writeBytes s.mem s.index.toNat (bcdDigits (getV s x))) s))) := rfl

theorem exec_storeRegistersInMemory (x : RegIdx) (s : State) :
    exec (.storeRegistersInMemory x) s =
      .next (withinMemory x.toNat (encodeWord (.storeRegistersInMemory x)) s
        (advance (setMem (Memory.writeBytes s.mem s.index.toNat (regList s (x.toNat + 1))) s))) := rfl

theorem exec_setRegistersFromMemory (x : RegIdx) (s : State) :
    exec (.setRegistersFromMemory x) s =
      .next (withinMemory x.toNat (encodeWord (.setRegistersFromMemory x)) s
        (advance (loadRegs s.mem s.index.toNat (x.toNat + 1) s))) := rfl

/-- R28, R48: the record of an access out of range. -/
theorem withinMemory_faults {e : Nat} {instr : Word} {done : State} (h : 4095 < s.index.toNat + e) :
    withinMemory e instr s done =
      { s with fault := some ⟨.memoryFault, s.pc, instr, firstMissingAddress s.index⟩ } := by
  rw [withinMemory_of_gt e instr s done h, lowestOutOfRange_eq]

end

/-- Settles O50: each of the three is one range check. -/
theorem blockTransfersOutOfRangeFault : Obligations.BlockTransfersOutOfRangeFault := by
  intro x s
  refine ⟨fun h => ?bcd, fun h => ⟨?store, ?load⟩⟩
  case bcd =>
    rw [exec_storeBcd, withinMemory_faults h, encodeWord, formXnn_eq_ofNat _ _ _ rfl]
    rfl
  case store =>
    rw [exec_storeRegistersInMemory, withinMemory_faults h, encodeWord, formXnn_eq_ofNat _ _ _ rfl]
    rfl
  case load =>
    rw [exec_setRegistersFromMemory, withinMemory_faults h, encodeWord, formXnn_eq_ofNat _ _ _ rfl]
    rfl

/-! ### The blocks in range -/

section

variable {x : RegIdx} {s : State}

theorem exec_storeBcd_of_le (h : s.index.toNat + 2 ≤ 4095) :
    exec (.storeBcd x) s =
      .next (advance (setMem (Memory.writeBytes s.mem s.index.toNat (bcdDigits (getV s x))) s)) := by
  rw [exec_storeBcd, withinMemory_of_le _ _ _ _ h]

theorem exec_storeRegistersInMemory_of_le (h : s.index.toNat + x.toNat ≤ 4095) :
    exec (.storeRegistersInMemory x) s =
      .next (advance (setMem (Memory.writeBytes s.mem s.index.toNat (regList s (x.toNat + 1))) s)) := by
  rw [exec_storeRegistersInMemory, withinMemory_of_le _ _ _ _ h]

theorem exec_setRegistersFromMemory_of_le (h : s.index.toNat + x.toNat ≤ 4095) :
    exec (.setRegistersFromMemory x) s = .next (advance (loadRegs s.mem s.index.toNat (x.toNat + 1) s)) := by
  rw [exec_setRegistersFromMemory, withinMemory_of_le _ _ _ _ h]

end

/-- The three digits as numbers (R151). -/
theorem toNat_getD_bcdDigits (b : Byte) :
    ((bcdDigits b).getD 0 0#8).toNat = b.toNat / 100 ∧ ((bcdDigits b).getD 1 0#8).toNat = b.toNat / 10 % 10 ∧
      ((bcdDigits b).getD 2 0#8).toNat = b.toNat % 10 := by
  have hb : b.toNat < 256 := b.isLt
  simp only [bcdDigits, List.getD_cons_zero, List.getD_cons_succ, BitVec.toNat_ofNat]
  omega

/-- Settles O47: one block of three bytes, read digit by digit. -/
theorem storeBcdWritesDigits : Obligations.StoreBcdWritesDigits := by
  intro x s hm hrange
  refine ⟨_, exec_storeBcd_of_le hrange, fun a => ?_, rfl⟩
  obtain ⟨hundreds, tens, ones⟩ := toNat_getD_bcdDigits (getV s x)
  have hread := read_writeBytes (bcdDigits (getV s x)) s.mem hm s.index.toNat a
    (by rw [length_bcdDigits, Config.memBytes]; omega)
  rw [advance_mem, setMem_mem, hread, length_bcdDigits]
  by_cases hin : s.index.toNat ≤ a ∧ a < s.index.toNat + 3
  · rw [if_pos hin]
    obtain rfl | rfl | rfl : a = s.index.toNat ∨ a = s.index.toNat + 1 ∨ a = s.index.toNat + 2 := by omega
    · simpa using hundreds
    · simpa using tens
    · simpa using ones
  · rw [if_neg hin, if_neg (by omega), if_neg (by omega), if_neg (by omega)]

/-- The registers at their addresses after a StoreRegistersInMemory in range, and memory elsewhere. -/
theorem read_writeBytes_regList {x : RegIdx} {s : State} (hm : s.mem.wf = true) (h : s.index.toNat + x.toNat ≤ 4095)
    (a : Nat) :
    Memory.read (Memory.writeBytes s.mem s.index.toNat (regList s (x.toNat + 1))) a =
      if s.index.toNat ≤ a ∧ a ≤ s.index.toNat + x.toNat then getV s (BitVec.ofNat 4 (a - s.index.toNat))
      else Memory.read s.mem a := by
  rw [read_writeBytes _ s.mem hm _ a (by rw [length_regList, Config.memBytes]; omega), length_regList]
  by_cases hin : s.index.toNat ≤ a ∧ a ≤ s.index.toNat + x.toNat
  · rw [if_pos hin, if_pos (by omega), getD_regList s _ _ (by omega)]
  · rw [if_neg hin, if_neg (by omega)]

/-- Settles O48: the block written is the list of the registers. -/
theorem storeRegistersWritesBlock : Obligations.StoreRegistersWritesBlock :=
  fun _ _ hm h => ⟨_, exec_storeRegistersInMemory_of_le h, read_writeBytes_regList hm h, rfl⟩

/-- The registers after a SetRegistersFromMemory, up to `x` from memory. -/
theorem getV_advance_loadRegs (x r : RegIdx) (m : Memory) (base : Nat) (s : State) :
    getV (advance (loadRegs m base (x.toNat + 1) s)) r =
      if r.toNat ≤ x.toNat then Memory.read m (base + r.toNat) else getV s r := by
  have hx : x.toNat < 16 := x.isLt
  rw [getV_advance, getV_loadRegs m base _ s r (by omega)]
  simp only [Nat.lt_succ_iff]

/-- Settles O49: the load writes the register file alone. -/
theorem setRegistersReadsBlock : Obligations.SetRegistersReadsBlock := by
  intro x s h
  refine ⟨_, exec_setRegistersFromMemory_of_le h, fun r => getV_advance_loadRegs x r s.mem _ s, ?_⟩
  rw [loadRegs_eq]
  rfl

/-- Settles O51: register `r` is stored at `I + r`, from where it is loaded. -/
theorem storeThenLoadRestores : Obligations.StoreThenLoadRestores := by
  intro x s hm h
  refine ⟨_, exec_storeRegistersInMemory_of_le h, fun u hmem hindex => ?_⟩
  rw [advance_mem, setMem_mem] at hmem
  refine ⟨_, exec_setRegistersFromMemory_of_le (by rw [hindex]; exact h), fun r hr => ?_⟩
  rw [getV_advance_loadRegs, if_pos hr, hmem, hindex, read_writeBytes_regList hm h, if_pos (by omega),
    Nat.add_sub_cancel_left, BitVec.ofNat_toNat, BitVec.setWidth_eq]

end Sys2Proof.Machine
end

section
/-!
DrawSprite pixel by pixel (spec/45_draw.md R130 to R137). A draw is read as the list of the framebuffer pixels it hits, for
either value of `DRAW_EDGE`: the list has no pixel twice, so each hit pixel is inverted once and a collision is a hit on a pixel
that was set before the draw. Both edges share this; they differ in which pixels the list holds.
-/

namespace Sys2Proof.Machine

/-! ### The pixels a sprite hits -/

/-- The framebuffer pixel at column `px`, row `py`, none where the edge clips it (R134). -/
def pixelAt (edge : DrawEdge) (px py : Nat) : Option Nat :=
  match edge with
  | .clip => if px < 64 ∧ py < 32 then some (pixelIndex px py) else none
  | .wrap => some (pixelIndex (px % 64) (py % 32))

/-- The pixel a sprite bit hits, given as row and column: none where the bit is 0 or clipped (R133, R134). -/
def hitBy (edge : DrawEdge) (m : Memory) (base x0 y0 : Nat) (p : Nat × Nat) : Option Nat :=
  if spriteBit m base p.2 p.1 then pixelAt edge (x0 + p.2) (y0 + p.1) else none

/-- The pixels a sprite of `n` rows hits, in the order of the draw. -/
def hitPixels (edge : DrawEdge) (m : Memory) (base x0 y0 n : Nat) : List Nat :=
  ((List.range n).product (List.range 8)).filterMap (hitBy edge m base x0 y0)

/-- Pixels inverted one after the other. -/
def flipAll (js : List Nat) (acc : FrameBuffer × Bool) : FrameBuffer × Bool := js.foldl (fun a j => flipPixel j a) acc

theorem plotPixel_eq (edge : DrawEdge) (px py : Nat) (acc : FrameBuffer × Bool) :
    plotPixel edge px py acc = (pixelAt edge px py).elim acc fun j => flipPixel j acc := by
  cases edge with
  | clip =>
    rw [plotPixel, pixelAt]
    split <;> rfl
  | wrap => rfl

/-- The draw is the inversion of the pixels hit. -/
theorem drawRows_eq_flipAll (edge : DrawEdge) (m : Memory) (base x0 y0 n : Nat) (acc : FrameBuffer × Bool) :
    drawRows edge m base x0 y0 n acc = flipAll (hitPixels edge m base x0 y0 n) acc := by
  rw [flipAll, hitPixels, List.foldl_filterMap, List.product, List.foldl_flatMap]
  simp only [List.foldl_map]
  rw [drawRows]
  congr 1
  funext a row
  rw [drawRow]
  congr 1
  funext a col
  rw [plotPixel_eq, hitBy, spriteBit]
  cases (Memory.read m (base + row)).getLsbD (7 - col) with
  | false => rfl
  | true => cases pixelAt edge (x0 + col) (y0 + row) <;> rfl

section

variable {edge : DrawEdge} {m : Memory} {base x0 y0 n j : Nat}

theorem mem_hitPixels_iff :
    j ∈ hitPixels edge m base x0 y0 n ↔
      ∃ row col, row < n ∧ col < 8 ∧ spriteBit m base col row = true ∧ pixelAt edge (x0 + col) (y0 + row) = some j := by
  simp [hitPixels, hitBy, List.mem_filterMap, and_assoc]

theorem pixelAt_clip_iff {px py : Nat} :
    pixelAt .clip px py = some j ↔ j % 64 = px ∧ j / 64 = py ∧ py < 32 := by
  rw [pixelAt, Option.ite_none_right_eq_some, Option.some.injEq, pixelIndex]
  omega

theorem pixelAt_wrap_iff {px py : Nat} :
    pixelAt .wrap px py = some j ↔ j % 64 = px % 64 ∧ j / 64 = py % 32 := by
  rw [pixelAt, Option.some.injEq, pixelIndex]
  omega

/-- Under either edge the pixel's column and row are those asked for, reduced. -/
theorem of_pixelAt {px py : Nat} (h : pixelAt edge px py = some j) : j % 64 = px % 64 ∧ j / 64 = py % 32 := by
  cases edge with
  | clip =>
    rw [pixelAt_clip_iff] at h
    omega
  | wrap => exact pixelAt_wrap_iff.mp h

theorem lt_of_mem_hitPixels (h : j ∈ hitPixels edge m base x0 y0 n) : j < 2048 := by
  obtain ⟨row, col, -, -, -, hj⟩ := mem_hitPixels_iff.mp h
  have := of_pixelAt hj
  omega

/-- A sprite is at most 8 wide and 32 high, so no two of its bits meet on a pixel. -/
theorem nodup_hitPixels (hn : n ≤ 32) : (hitPixels edge m base x0 y0 n).Nodup := by
  rw [hitPixels, List.Nodup, List.pairwise_filterMap]
  have hpairs : ((List.range n).product (List.range 8)).Nodup := List.nodup_range.product List.nodup_range
  refine hpairs.imp_of_mem fun {p q} hp hq hne j hj k hk hjk => hne ?_
  obtain ⟨r, c⟩ := p
  obtain ⟨r', c'⟩ := q
  simp only [List.pair_mem_product, List.mem_range] at hp hq
  have hpixel := of_pixelAt (Option.ite_none_right_eq_some.mp hj).2
  have hpixel' := of_pixelAt (Option.ite_none_right_eq_some.mp hk).2
  subst hjk
  dsimp only at hpixel hpixel'
  rw [Prod.mk.injEq]
  omega

/-! ### Which pixels those are -/

/-- Coverage with clipped edges says the pixels hit (R134). -/
theorem clipCovers_iff (hj : j < 2048) :
    clipCovers m base x0 y0 n j = true ↔ j ∈ hitPixels .clip m base x0 y0 n := by
  simp only [clipCovers, Bool.and_eq_true, decide_eq_true_eq, mem_hitPixels_iff, pixelAt_clip_iff]
  constructor
  · rintro ⟨⟨⟨⟨hx, hx8⟩, hy⟩, hyn⟩, hbit⟩
    exact ⟨j / 64 - y0, j % 64 - x0, by omega, by omega, hbit, by omega, by omega, by omega⟩
  · rintro ⟨row, col, hrow, hcol, hbit, hx, hy, -⟩
    have hc : j % 64 - x0 = col := by omega
    have hr : j / 64 - y0 = row := by omega
    rw [hc, hr]
    exact ⟨by omega, hbit⟩

/-- Coverage with wrapped edges says the pixels hit (R134). -/
theorem wrapCovers_iff (hx0 : x0 < 64) (hy0 : y0 < 32) (hn : n ≤ 32) (hj : j < 2048) :
    wrapCovers m base x0 y0 n j = true ↔ j ∈ hitPixels .wrap m base x0 y0 n := by
  simp only [wrapCovers, Bool.and_eq_true, decide_eq_true_eq, mem_hitPixels_iff, pixelAt_wrap_iff]
  constructor
  · rintro ⟨⟨hx, hy⟩, hbit⟩
    exact ⟨(j / 64 + 32 - y0) % 32, (j % 64 + 64 - x0) % 64, hy, hx, hbit, by omega, by omega⟩
  · rintro ⟨row, col, hrow, hcol, hbit, hx, hy⟩
    have hc : (j % 64 + 64 - x0) % 64 = col := by omega
    have hr : (j / 64 + 32 - y0) % 32 = row := by omega
    rw [hc, hr]
    exact ⟨⟨hcol, hrow⟩, hbit⟩

end

/-! ### What inverting the pixels of a list does -/

/-- Each pixel of the list is inverted, the others are not. -/
theorem getLsbD_flipAll {js : List Nat} (hjs : js.Nodup) (acc : FrameBuffer × Bool) {k : Nat} (hk : k < 2048) :
    (flipAll js acc).1.getLsbD k = (acc.1.getLsbD k ^^ decide (k ∈ js)) := by
  induction js generalizing acc with
  | nil => simp [flipAll]
  | cons j js ih =>
    obtain ⟨hj, hjs⟩ := List.nodup_cons.mp hjs
    rw [show flipAll (j :: js) acc = flipAll js (flipPixel j acc) from rfl, ih hjs, getLsbD_flipPixel j k acc hk]
    by_cases h : k = j
    · subst h
      simp [hj]
    · simp [h, Ne.symm h]

/-- A collision is a pixel of the list that was set before the first inversion. -/
theorem snd_flipAll {js : List Nat} (hjs : js.Nodup) (hlt : ∀ j ∈ js, j < 2048) (acc : FrameBuffer × Bool) :
    (flipAll js acc).2 = (acc.2 || js.any fun j => acc.1.getLsbD j) := by
  induction js generalizing acc with
  | nil => simp [flipAll]
  | cons j js ih =>
    obtain ⟨hj, hjs⟩ := List.nodup_cons.mp hjs
    have hrest : js.any (fun k => (flipPixel j acc).1.getLsbD k) = js.any fun k => acc.1.getLsbD k := by
      rw [Bool.eq_iff_iff, List.any_eq_true, List.any_eq_true]
      refine exists_congr fun k => and_congr_right fun hk => ?_
      have hne : j ≠ k := fun e => hj (e ▸ hk)
      rw [getLsbD_flipPixel j k acc (hlt k (List.mem_cons_of_mem j hk))]
      simp [hne]
    rw [show flipAll (j :: js) acc = flipAll js (flipPixel j acc) from rfl,
      ih hjs (fun k hk => hlt k (List.mem_cons_of_mem j hk)), snd_flipPixel, hrest, List.any_cons, Bool.or_assoc]

theorem collides_iff (fb : FrameBuffer) (covers : Nat → Bool) :
    collides fb covers = true ↔ ∃ j, j < 2048 ∧ fb.getLsbD j = true ∧ covers j = true := by
  simp [collides, List.any_eq_true]

/-- Two coverages that agree on the set pixels collide alike. -/
theorem collides_congr {fb fb' : FrameBuffer} {covers : Nat → Bool}
    (h : ∀ j, j < 2048 → covers j = true → fb.getLsbD j = fb'.getLsbD j) :
    collides fb covers = collides fb' covers := by
  rw [Bool.eq_iff_iff, collides_iff, collides_iff]
  refine exists_congr fun j => and_congr_right fun hj => ?_
  exact and_congr_left fun hc => by rw [h j hj hc]

/-! ### The state a draw leaves -/

/-- What a draw of a coverage leaves of a state (R135, R136). -/
def DrawnBy (covers : Nat → Bool) (s t : State) : Prop :=
  (∀ j, j < 2048 → t.fb.getLsbD j = (s.fb.getLsbD j ^^ covers j)) ∧
    (getV t 15#4).toNat = (if collides s.fb covers = true then 1 else 0) ∧
    (∀ r, r ≠ 15#4 → getV t r = getV s r) ∧
    t = { s with fb := t.fb, v := t.v, redraw := true, pc := s.pc + 2#16 }

/-- The draw of a coverage that says the pixels hit. -/
theorem drawnBy_drawn {edge : DrawEdge} {x y : RegIdx} {n : Nat} {s : State} {covers : Nat → Bool} (hn : n ≤ 32)
    (h : ∀ j, j < 2048 →
      (covers j = true ↔ j ∈ hitPixels edge s.mem s.index.toNat (spriteColumn s x) (spriteRow s y) n)) :
    DrawnBy covers s (drawn edge x y n s) := by
  have hnodup := nodup_hitPixels (edge := edge) (m := s.mem) (base := s.index.toNat) (x0 := spriteColumn s x)
    (y0 := spriteRow s y) hn
  have hdraw := drawRows_eq_flipAll edge s.mem s.index.toNat (spriteColumn s x) (spriteRow s y) n (s.fb, false)
  refine ⟨fun j hj => ?pixel, ?flag, fun r hr => ?register, rfl⟩
  case pixel =>
    rw [drawn, advance_fb, showFrame_fb, hdraw, getLsbD_flipAll hnodup _ hj]
    simp only [← h j hj, Bool.decide_eq_true]
  case flag =>
    rw [drawn, getV_advance, getV_showFrame, getV_setV, if_pos rfl, hdraw]
    apply toNat_flagByte
    rw [snd_flipAll hnodup (fun _ => lt_of_mem_hitPixels), Bool.false_or, List.any_eq_true, collides_iff]
    constructor
    · rintro ⟨j, hj, hset⟩
      have hlt := lt_of_mem_hitPixels hj
      exact ⟨j, hlt, hset, (h j hlt).mpr hj⟩
    · rintro ⟨j, hlt, hset, hcovers⟩
      exact ⟨j, (h j hlt).mp hcovers, hset⟩
  case register => rw [drawn, getV_advance, getV_showFrame, getV_setV, if_neg hr]

/-- A sprite whose rows all exist, one of no rows included, is drawn. -/
theorem drawSpriteWith_of_le (edge : DrawEdge) (x y : RegIdx) {n : Nibble} {s : State}
    (h : n.toNat = 0 ∨ s.index.toNat + n.toNat - 1 ≤ 4095) :
    drawSpriteWith edge x y n s = drawn edge x y n.toNat s := by
  unfold drawSpriteWith
  split
  next h0 => rw [h0]
  next => exact withinMemory_of_le _ _ _ _ (by omega)

theorem exec_drawSprite (x y : RegIdx) (n : Nibble) (s : State) :
    exec (.drawSprite x y n) s = .next (drawSpriteWith .clip x y n s) := rfl

/-- DrawSprite in range draws the clipped coverage. -/
theorem exec_drawSprite_of_le (x y : RegIdx) {n : Nibble} {s : State}
    (h : n.toNat = 0 ∨ s.index.toNat + n.toNat - 1 ≤ 4095) :
    ∃ t, exec (.drawSprite x y n) s = .next t ∧
      DrawnBy (clipCovers s.mem s.index.toNat ((getV s x).toNat % 64) ((getV s y).toNat % 32) n.toNat) s t := by
  have hn : n.toNat < 16 := n.isLt
  refine ⟨_, exec_drawSprite x y n s, ?_⟩
  rw [drawSpriteWith_of_le .clip x y h]
  exact drawnBy_drawn (by omega) fun j hj => clipCovers_iff hj

/-- Settles O42: the clipped coverage is drawn. -/
theorem drawSpriteClipsAndCollides : Obligations.DrawSpriteClipsAndCollides := by
  rintro x y n s h covers rfl
  exact exec_drawSprite_of_le x y h

/-- Settles O43: under `wrap` the wrapped coverage is drawn, by the same list of pixels. -/
theorem drawSpriteUnderWrap : Obligations.DrawSpriteUnderWrap := by
  rintro x y n s h covers rfl t rfl
  have hn : n.toNat < 16 := n.isLt
  rw [drawSpriteWith_of_le .wrap x y h]
  exact drawnBy_drawn (by omega) fun j hj =>
    wrapCovers_iff (Nat.mod_lt _ (by decide)) (Nat.mod_lt _ (by decide)) (by omega) hj

/-- Settles O44: the range of the rows is checked before the draw. -/
theorem drawSpriteOutOfRangeFaults : Obligations.DrawSpriteOutOfRangeFaults := by
  intro x y n s hn h
  rw [exec_drawSprite, drawSpriteWith, if_neg hn, withinMemory_faults (by omega), encodeWord,
    formXyn_eq_ofNat _ _ _ _ rfl]
  rfl

/-! ### The same sprite drawn twice -/

/-- A second draw of the same coverage takes every pixel back. -/
theorem fb_eq_of_drawnBy_twice {covers : Nat → Bool} {s t u : State} (ht : DrawnBy covers s t) (hu : DrawnBy covers t u) :
    u.fb = s.fb := by
  apply BitVec.eq_of_getLsbD_eq
  intro j hj
  rw [hu.1 j hj, ht.1 j hj, Bool.xor_assoc, Bool.xor_self, Bool.xor_false]

/-- R135: a covered pixel is set before the second draw exactly when it was clear before the first. -/
theorem collides_of_drawnBy {covers : Nat → Bool} {s t : State} (ht : DrawnBy covers s t) :
    collides t.fb covers = collides (~~~s.fb) covers := by
  apply collides_congr
  intro j hj hc
  rw [ht.1 j hj, hc, BitVec.getLsbD_not, Bool.xor_true, decide_eq_true hj, Bool.true_and]

/-- Settles O45: neither draw moves the sprite or its rows, so both draw one coverage. -/
theorem drawTwiceErases : Obligations.DrawTwiceErases := by
  intro x y n s hx hy h
  obtain ⟨t, hst, ht⟩ := exec_drawSprite_of_le x y h
  have ⟨_, _, hreg, hframe⟩ := ht
  have hmem : t.mem = s.mem := by rw [hframe]
  have hindex : t.index = s.index := by rw [hframe]
  obtain ⟨u, htu, hu⟩ := exec_drawSprite_of_le (s := t) x y (by rwa [hindex])
  rw [hmem, hindex, hreg x hx, hreg y hy] at hu
  refine ⟨t, u, hst, htu, fb_eq_of_drawnBy_twice ht hu, ?_⟩
  have ⟨_, hflag, _, _⟩ := hu
  rw [hflag, collides_of_drawnBy ht]

/-- The reset state with the first row of glyph 0, `F0`, shown at the top left corner. -/
def glyphRowShown : State := { State.reset with fb := 0xF#2048 }

/-- Refutes O46: the row shown already is drawn over twice. The first draw clears its four pixels, and the second finds them
clear and leaves `VF = 0`. -/
theorem not_secondDrawAlwaysCollides : ¬ Obligations.SecondDrawAlwaysCollides := by
  intro h
  have hcovers : clipCovers glyphRowShown.mem glyphRowShown.index.toNat ((getV glyphRowShown 0#4).toNat % 64)
      ((getV glyphRowShown 1#4).toNat % 32) (1#4).toNat 0 = true := by decide
  have hsecond : ∃ t u, exec (.drawSprite 0#4 1#4 1#4) glyphRowShown = .next t ∧
      exec (.drawSprite 0#4 1#4 1#4) t = .next u ∧ getV u 15#4 = 0#8 := ⟨_, _, rfl, rfl, by decide +kernel⟩
  obtain ⟨t, u, ht, hu, hvf⟩ := hsecond
  have hone := h 0#4 1#4 1#4 glyphRowShown t u (by decide) (by decide) ⟨0, by decide, hcovers⟩ (by decide) ht hu
  rw [hvf] at hone
  cases hone

end Sys2Proof.Machine
end
